-- ==== Sys2Proof/Word.lean ====
section
/-!
DEFINITION. The machine's word types (spec 00_scope R6, R7).

Every value of this machine is unsigned (R7): there is no sign extension anywhere in the instruction set.
Addresses that are being computed (I + offset, PC + 2, nnn + V0) are plain `Nat`, because the spec computes them as
mathematical integers and range-checks them before they are used (20_memory R55, 30_encoding R83). Times are plain `Nat`
too: whole units of the machine's time base (60_exceptions R213).
-/

namespace Sys2Proof

/-- A memory cell or a general register (R6 CELL_BITS, REG_BITS). -/
abbrev Byte := BitVec 8

/-- An instruction word, the program counter, or a stack entry (R6 PC_BITS, STACK_BITS). -/
abbrev Word := BitVec 16

/-- A 12-bit address: the field nnn, and what the index register holds (R71, R23). -/
abbrev Addr := BitVec 12

/-- A register number 0..15, or the 4-bit row count n of Dxyn (R71). -/
abbrev Nibble := BitVec 4

end Sys2Proof
end

