-- ==== Sys2Proof/Syntax.lean ====
section
/-!
DEFINITION. The 35 instructions (spec 30_encoding R75), one constructor per row of spec/opcode_table.json, in its order.

Operands are the fields of R71: `x`, `y` register numbers, `kk` an 8-bit immediate, `nnn` a 12-bit address, `n` the row
count of Dxyn. `shrVx` and `shlVx` carry the y field although no meaning reads it (R73), so that an instruction and its
word determine each other.
-/

namespace Sys2Proof

inductive Instr where
  /-- 00E0 CLS (R160) -/
  | cls
  /-- 00EE RET (R101) -/
  | ret
  /-- 0nnn SYS nnn, the no-op (R100) -/
  | sys (nnn : Addr)
  /-- 1nnn JP nnn (R102) -/
  | jp (nnn : Addr)
  /-- 2nnn CALL nnn (R103) -/
  | call (nnn : Addr)
  /-- 3xkk SE Vx, kk (R104) -/
  | seVxKk (x : Nibble) (kk : Byte)
  /-- 4xkk SNE Vx, kk (R105) -/
  | sneVxKk (x : Nibble) (kk : Byte)
  /-- 5xy0 SE Vx, Vy (R106) -/
  | seVxVy (x y : Nibble)
  /-- 6xkk LD Vx, kk (R120) -/
  | ldVxKk (x : Nibble) (kk : Byte)
  /-- 7xkk ADD Vx, kk (R121) -/
  | addVxKk (x : Nibble) (kk : Byte)
  /-- 8xy0 LD Vx, Vy (R122) -/
  | ldVxVy (x y : Nibble)
  /-- 8xy1 OR Vx, Vy (R123) -/
  | orVxVy (x y : Nibble)
  /-- 8xy2 AND Vx, Vy (R124) -/
  | andVxVy (x y : Nibble)
  /-- 8xy3 XOR Vx, Vy (R125) -/
  | xorVxVy (x y : Nibble)
  /-- 8xy4 ADD Vx, Vy (R126) -/
  | addVxVy (x y : Nibble)
  /-- 8xy5 SUB Vx, Vy (R127) -/
  | subVxVy (x y : Nibble)
  /-- 8xy6 SHR Vx (R128); y is ignored -/
  | shrVx (x y : Nibble)
  /-- 8xy7 SUBN Vx, Vy (R129) -/
  | subnVxVy (x y : Nibble)
  /-- 8xyE SHL Vx (R130); y is ignored -/
  | shlVx (x y : Nibble)
  /-- 9xy0 SNE Vx, Vy (R107) -/
  | sneVxVy (x y : Nibble)
  /-- Annn LD I, nnn (R140) -/
  | ldINnn (nnn : Addr)
  /-- Bnnn JP V0, nnn (R108) -/
  | jpV0Nnn (nnn : Addr)
  /-- Cxkk RND Vx, kk (R131) -/
  | rndVxKk (x : Nibble) (kk : Byte)
  /-- Dxyn DRW Vx, Vy, n (R161) -/
  | drwVxVyN (x y n : Nibble)
  /-- Ex9E SKP Vx (R162) -/
  | skpVx (x : Nibble)
  /-- ExA1 SKNP Vx (R163) -/
  | sknpVx (x : Nibble)
  /-- Fx07 LD Vx, DT (R164) -/
  | ldVxDt (x : Nibble)
  /-- Fx0A LD Vx, K (R165) -/
  | ldVxK (x : Nibble)
  /-- Fx15 LD DT, Vx (R166) -/
  | ldDtVx (x : Nibble)
  /-- Fx18 LD ST, Vx (R167) -/
  | ldStVx (x : Nibble)
  /-- Fx1E ADD I, Vx (R141) -/
  | addIVx (x : Nibble)
  /-- Fx29 LD F, Vx (R142) -/
  | ldFVx (x : Nibble)
  /-- Fx33 LD B, Vx (R143) -/
  | ldBVx (x : Nibble)
  /-- Fx55 LD [I], Vx (R144) -/
  | ldMemVx (x : Nibble)
  /-- Fx65 LD Vx, [I] (R145) -/
  | ldVxMem (x : Nibble)
deriving DecidableEq, Repr

end Sys2Proof
end

