-- ==== Sys2Proof/WellFormed.lean ====
section
/-!
DEFINITION. Which terms of `Instr` stand for an instruction word.

The operand types already say the ranges of R71 and R73. One condition is left (30_encoding R75 row 3, R76 (b)): SYS nnn
is the word 0x0nnn OTHER THAN 0x00E0 and 0x00EE, which are CLS and RET.
-/

namespace Sys2Proof

/-- The condition of R100 on SYS: "pattern 0nnn other than 00E0 and 00EE". Every other instruction is well-formed. -/
def Instr.wellFormed (ins : Instr) : Bool :=
  match ins with
  | .sys nnn => nnn != 0x0E0#12 && nnn != 0x0EE#12
  | .cls | .ret | .jp _ | .call _ | .seVxKk _ _ | .sneVxKk _ _ | .seVxVy _ _ | .ldVxKk _ _ | .addVxKk _ _
  | .ldVxVy _ _ | .orVxVy _ _ | .andVxVy _ _ | .xorVxVy _ _ | .addVxVy _ _ | .subVxVy _ _ | .shrVx _ _
  | .subnVxVy _ _ | .shlVx _ _ | .sneVxVy _ _ | .ldINnn _ | .jpV0Nnn _ | .rndVxKk _ _ | .drwVxVyN _ _ _
  | .skpVx _ | .sknpVx _ | .ldVxDt _ | .ldVxK _ | .ldDtVx _ | .ldStVx _ | .addIVx _ | .ldFVx _ | .ldBVx _
  | .ldMemVx _ | .ldVxMem _ => true

end Sys2Proof
end

