-- ==== Sys2Proof/Decode.lean ====
section
/-!
DEFINITION. Decoding and encoding (spec 30_encoding R70 to R77, 20_memory R56).

Decode is a total function of the word alone (R74): one of the 35 instructions with its fields, or malformed. The
encoder is written from the same opcode map (R75) and formats (R72).
-/

namespace Sys2Proof

/-! ### The fields of a word (R71) -/

def opField  (w : Word) : Nibble := w.extractLsb' 12 4
def xField   (w : Word) : Nibble := w.extractLsb' 8 4
def yField   (w : Word) : Nibble := w.extractLsb' 4 4
def nField   (w : Word) : Nibble := w.extractLsb' 0 4
def kkField  (w : Word) : Byte   := w.extractLsb' 0 8
def nnnField (w : Word) : Addr   := w.extractLsb' 0 12

/-! ### Secondary selectors (R74) -/

/-- Family 0: the whole word is compared (R76 (b)). -/
def decodeFamily0 (w : Word) : Instr :=
  if w = 0x00E0#16 then .cls else if w = 0x00EE#16 then .ret else .sys (nnnField w)

/-- Family 8: the selector is the low nibble; y is an operand or ignored (R76 (c)). -/
def decodeFamily8 (w : Word) : Option Instr :=
  match (nField w).toNat with
  | 0x0 => some (.ldVxVy (xField w) (yField w))
  | 0x1 => some (.orVxVy (xField w) (yField w))
  | 0x2 => some (.andVxVy (xField w) (yField w))
  | 0x3 => some (.xorVxVy (xField w) (yField w))
  | 0x4 => some (.addVxVy (xField w) (yField w))
  | 0x5 => some (.subVxVy (xField w) (yField w))
  | 0x6 => some (.shrVx (xField w) (yField w))
  | 0x7 => some (.subnVxVy (xField w) (yField w))
  | 0xE => some (.shlVx (xField w) (yField w))
  | _   => none

/-- Family E: the selector is the whole low byte (R76 (d)). -/
def decodeFamilyE (w : Word) : Option Instr :=
  match (kkField w).toNat with
  | 0x9E => some (.skpVx (xField w))
  | 0xA1 => some (.sknpVx (xField w))
  | _    => none

/-- Family F: the selector is the whole low byte (R76 (d)). -/
def decodeFamilyF (w : Word) : Option Instr :=
  match (kkField w).toNat with
  | 0x07 => some (.ldVxDt (xField w))
  | 0x0A => some (.ldVxK (xField w))
  | 0x15 => some (.ldDtVx (xField w))
  | 0x18 => some (.ldStVx (xField w))
  | 0x1E => some (.addIVx (xField w))
  | 0x29 => some (.ldFVx (xField w))
  | 0x33 => some (.ldBVx (xField w))
  | 0x55 => some (.ldMemVx (xField w))
  | 0x65 => some (.ldVxMem (xField w))
  | _    => none

/-- The decoder: first the high nibble, then the family's selector (R74, R75). Families 5 and 9 require a last nibble
of 0 (R76 (a)). `none` is a malformed word (R77). -/
def decodeWord (w : Word) : Option Instr :=
  match (opField w).toNat with
  | 0x0 => some (decodeFamily0 w)
  | 0x1 => some (.jp (nnnField w))
  | 0x2 => some (.call (nnnField w))
  | 0x3 => some (.seVxKk (xField w) (kkField w))
  | 0x4 => some (.sneVxKk (xField w) (kkField w))
  | 0x5 => if nField w = 0#4 then some (.seVxVy (xField w) (yField w)) else none
  | 0x6 => some (.ldVxKk (xField w) (kkField w))
  | 0x7 => some (.addVxKk (xField w) (kkField w))
  | 0x8 => decodeFamily8 w
  | 0x9 => if nField w = 0#4 then some (.sneVxVy (xField w) (yField w)) else none
  | 0xA => some (.ldINnn (nnnField w))
  | 0xB => some (.jpV0Nnn (nnnField w))
  | 0xC => some (.rndVxKk (xField w) (kkField w))
  | 0xD => some (.drwVxVyN (xField w) (yField w) (nField w))
  | 0xE => decodeFamilyE w
  | _   => decodeFamilyF w

/-! ### The encoder, from the formats of R72 -/

/-- Format NNN: op, nnn. -/
def wordNnn (op : Nibble) (nnn : Addr) : Word := op ++ nnn
/-- Formats XKK and X: op, x, low byte. -/
def wordXkk (op x : Nibble) (kk : Byte) : Word := op ++ x ++ kk
/-- Formats XY and XYN: op, x, y, last nibble. -/
def wordXyn (op x y n : Nibble) : Word := op ++ x ++ y ++ n

/-- The word of an instruction (R75). -/
def encode (ins : Instr) : Word :=
  match ins with
  | .cls            => 0x00E0#16
  | .ret            => 0x00EE#16
  | .sys nnn        => wordNnn 0x0#4 nnn
  | .jp nnn         => wordNnn 0x1#4 nnn
  | .call nnn       => wordNnn 0x2#4 nnn
  | .seVxKk x kk    => wordXkk 0x3#4 x kk
  | .sneVxKk x kk   => wordXkk 0x4#4 x kk
  | .seVxVy x y     => wordXyn 0x5#4 x y 0x0#4
  | .ldVxKk x kk    => wordXkk 0x6#4 x kk
  | .addVxKk x kk   => wordXkk 0x7#4 x kk
  | .ldVxVy x y     => wordXyn 0x8#4 x y 0x0#4
  | .orVxVy x y     => wordXyn 0x8#4 x y 0x1#4
  | .andVxVy x y    => wordXyn 0x8#4 x y 0x2#4
  | .xorVxVy x y    => wordXyn 0x8#4 x y 0x3#4
  | .addVxVy x y    => wordXyn 0x8#4 x y 0x4#4
  | .subVxVy x y    => wordXyn 0x8#4 x y 0x5#4
  | .shrVx x y      => wordXyn 0x8#4 x y 0x6#4
  | .subnVxVy x y   => wordXyn 0x8#4 x y 0x7#4
  | .shlVx x y      => wordXyn 0x8#4 x y 0xE#4
  | .sneVxVy x y    => wordXyn 0x9#4 x y 0x0#4
  | .ldINnn nnn     => wordNnn 0xA#4 nnn
  | .jpV0Nnn nnn    => wordNnn 0xB#4 nnn
  | .rndVxKk x kk   => wordXkk 0xC#4 x kk
  | .drwVxVyN x y n => wordXyn 0xD#4 x y n
  | .skpVx x        => wordXkk 0xE#4 x 0x9E#8
  | .sknpVx x       => wordXkk 0xE#4 x 0xA1#8
  | .ldVxDt x       => wordXkk 0xF#4 x 0x07#8
  | .ldVxK x        => wordXkk 0xF#4 x 0x0A#8
  | .ldDtVx x       => wordXkk 0xF#4 x 0x15#8
  | .ldStVx x       => wordXkk 0xF#4 x 0x18#8
  | .addIVx x       => wordXkk 0xF#4 x 0x1E#8
  | .ldFVx x        => wordXkk 0xF#4 x 0x29#8
  | .ldBVx x        => wordXkk 0xF#4 x 0x33#8
  | .ldMemVx x      => wordXkk 0xF#4 x 0x55#8
  | .ldVxMem x      => wordXkk 0xF#4 x 0x65#8

/-! ### Bytes (R56: big-endian, the byte at PC is bits 15:8) -/

/-- Two bytes as fetched, the one at the lower address first, "combine big-endian into a 16-bit opcode". -/
def wordOfBytes (hi lo : Byte) : Word := hi ++ lo

/-- A word as the two bytes it is stored as, the lower address first. -/
def bytesOfWord (w : Word) : List Byte := [w.extractLsb' 8 8, w.extractLsb' 0 8]

/-- Why bytes do not decode. -/
inductive DecodeReject where
  /-- The word matches no row of the opcode map (R77, MalformedInstruction). -/
  | malformed (w : Word)
  /-- Fewer than the two bytes of an instruction word. -/
  | tooFewBytes
deriving DecidableEq, Repr

/-- Decoding of any bytes: the instruction and the bytes after it, or the reason there is none. -/
def decodeBytes (bs : List Byte) : Except DecodeReject (Instr × List Byte) :=
  match bs with
  | hi :: lo :: rest =>
    match decodeWord (wordOfBytes hi lo) with
    | some ins => .ok (ins, rest)
    | none     => .error (.malformed (wordOfBytes hi lo))
  | _ => .error .tooFewBytes

/-- The bytes of an instruction in memory order. -/
def encodeBytes (ins : Instr) : List Byte := bytesOfWord (encode ins)

/-- The 16-bit word that the opcode table's numbering gives: bit 0 the least significant bit of the (only) word, every
bit above `nbits` zero. -/
def tableWord (nbits w : Nat) : Word := BitVec.ofNat 16 (w % 2 ^ nbits)

/-- What the decoder reads from the instruction whose bits are `w`: the word laid out as memory holds it (R56), then
`decodeBytes`. -/
def decodeTableWord (nbits w : Nat) : Option Instr :=
  match decodeBytes (bytesOfWord (tableWord nbits w)) with
  | .ok (ins, _) => some ins
  | .error _     => none

end Sys2Proof
end

