-- ==== Sys2Proof/Config.lean ====
section
/-!
DEFINITION. What is fixed for a machine, and the free values.

* The type of the font table FONT_BYTES (20_memory R53, decision D6; entry 4), an argument of reset.
* The time base (F_CPU against the 60 Hz tick): 00_scope R6, 70_reset_and_hazards R237, R242 (entry 9).
* The answers of the keyboard, the random source and the length of a keyboard wait: free values (93 U8, U9, U10;
  entries 6 and 7). `Config.inputs` has no body, so nothing can be proved about any one of its values.
-/

namespace Sys2Proof

/-- FONT_BYTES: "5 bytes per glyph, 16 glyphs", the bytes of glyph d at 5*d (R53). A configuration table (decision D6):
reset takes one (`boot` in Machine/Boot.lean), and the spec's own is `defaultFont` in Machine/Font.lean. -/
abbrev FontTable := Vector Byte 80

/-- P_CYCLE = 1/F_CPU and P_TICK = 1/60 s as whole numbers of one common time unit (R6), so that
F_CPU = 60 * pTick / pCycle Hz. Every positive rational rate has such a pair (R242). -/
structure TimeBase where
  pCycle : Nat
  pTick  : Nat
deriving DecidableEq, Repr

/-- The default rate, 512 Hz, in units of 1/7680 s: "P_CYCLE = 15 units and P_TICK = 128 units exactly" (R237). -/
def Config.defaultTimeBase : TimeBase := { pCycle := 15, pTick := 128 }

/-- What the environment answers during one cycle, or at one poll of a waiting Fx0A.
`keys`: isPressed for each of the 16 keys (60_exceptions R207). `keyAnswer`: waitForAnyKey's answer, `none` while no
key has answered; 8 bits, so that an answer above 0xF can be expressed (R208). `random`: Rng.byte (R212).
`stall`: how much time passes before a poll of a waiting Fx0A (43_peripheral R165; "may never return"). -/
structure Inputs where
  keys      : BitVec 16
  keyAnswer : Option Byte
  random    : Byte
  stall     : Nat
deriving DecidableEq, Repr, Inhabited

/-- The FREE VALUES of the environment: the n-th set of inputs (entry 6). It has no body: nothing constrains it. -/
opaque Config.inputs : Nat → Inputs

end Sys2Proof
end

