-- ==== Sys2Proof/Machine/State.lean ====
section
/-!
DEFINITION. The state of the machine, as plain data, and its value after reset (spec 10_state).

Fields `mem` to `fault` are the core's state, R20 to R28. `timeBase` is the parameter F_CPU of R6. Fields `now` to
`requests` are the environment as the core sees it (R31 keeps them out of the CORE's state; entries 6, 9, 11, 12).
-/

namespace Sys2Proof.Machine

/-- MEM (R20): the cells that differ from the reset image (R34), as (address, byte) pairs with strictly rising
addresses; `Memory.wf` in Machine/Ops.lean is the canonical form. -/
abbrev Memory := List Host.Cell

/-- A countdown timer (R26): count, last-set time, next-decrement deadline. -/
structure Timer where
  count    : Byte
  setTime  : Nat
  deadline : Nat
deriving DecidableEq, Repr

/-- The fault kinds of 60_exceptions R180; `none` is code 0, no fault has occurred. -/
inductive FaultKind where
  | none
  | malformedInstruction
  | stackOverflow
  | stackUnderflow
  | addressOutOfRange
  | invalidKeyIndex
  | pcOutOfRange
  | invalidGlyphIndex
deriving DecidableEq, Repr

/-- The fault record (R28): the kind, the word being executed and the address it was fetched from. -/
structure FaultRecord where
  kind   : FaultKind
  opcode : Word
  pc     : Word
deriving DecidableEq, Repr

/-- The run state (R28, 70_reset_and_hazards R235). WAIT_KEY carries the register of the Fx0A that waits (entry 20). -/
inductive RunState where
  /-- RUN: cycles are being executed. -/
  | running
  /-- WAIT_KEY: the instruction Fx0A with this x has asked for a key and has no answer yet. -/
  | waitKey (x : Nibble)
  /-- HALTED: a fault was raised; absorbing until reset. -/
  | halted
deriving DecidableEq, Repr

/-- The requests of 60_exceptions R202, with their arguments. -/
inductive Request where
  | displayClear
  | displayDraw (bytes : List Byte) (x y : Byte)
  | displayCheck
  | isPressed (key : Nibble)
  | waitForAnyKey
  | tone (ticks : Byte)
  | rngByte
  | clockNow
deriving DecidableEq, Repr

/-- The reference display's bitmap (R206): row py, in it bit px is the pixel P[px][py]. -/
abbrev Bitmap := Vector (BitVec 64) 32

structure State where
  /-- MEM, 4096 cells of 8 bits (R20) -/
  mem           : Memory
  /-- V0 to VF (R21); VF is the flag register (R22) -/
  v             : Vector Byte 16
  /-- I, always below 0x1000 (R23) -/
  ireg          : Addr
  /-- PC (R24) -/
  pc            : Word
  /-- SP, the number of stack entries in use (R25) -/
  sp            : Fin 17
  /-- STACK[0..15] (R25) -/
  stack         : Vector Word 16
  /-- the delay timer (R26) -/
  dt            : Timer
  /-- the sound timer (R26) -/
  st            : Timer
  /-- cycle_deadline, the nominal start of the next cycle (R27) -/
  cycleDeadline : Nat
  /-- run (R28) -/
  run           : RunState
  /-- the fault record (R28) -/
  fault         : FaultRecord
  /-- F_CPU, fixed at reset (R6, R242) -/
  timeBase      : TimeBase
  /-- the clock: t_k while cycle k runs (R213, R237) -/
  now           : Nat
  /-- the answers of the environment in this cycle or at this poll (entry 6) -/
  inputs        : Inputs
  /-- how many sets of inputs have been taken (entry 6) -/
  inputCount    : Nat
  /-- the reference display (R206) -/
  display       : Bitmap
  /-- every request sent so far, the newest first (entry 12) -/
  requests      : List Request
deriving DecidableEq, Repr

/-- Why a step stops the model itself. A fault of the CORE (R180) is no such stop: it is a next state with
`run = halted` and the record written (R189, entry 1). -/
inductive Fault where
  /-- Raised by `step` (Machine/RunLoop.lean) in state RUN when the two bytes at `pc` do not both exist, `pc + 1 > 0xFFF`.
  No state reachable from reset has such a pc (R24, R36 (a)). Safe: the spec gives such a fetch no meaning. -/
  | fetchOutsideMemory (pc : Word)
deriving DecidableEq, Repr

/-- Why a step is refused. -/
inductive Refusal where
  /-- Raised by an arm of `exec` whose instruction has no meaning yet. No arm does: all 35 are modelled. Safe. -/
  | notModelled (mnemonic : String)
deriving DecidableEq, Repr

/-- What `exec` and `step` answer. -/
abbrev Result := Host.Outcome State Fault Refusal

/-- The machine right after reset with the default font, the empty ROM, the default rate and T0 = 0 (R33, R34, R35; entries
3, 4, 5, 9). `boot` in Machine/Boot.lean is reset with any font, ROM and rate. The value of `inputs` is replaced before it is used
(entry 6). -/
def State.reset : State where
  mem           := []
  v             := Vector.replicate 16 0x00#8
  ireg          := 0x000#12
  pc            := 0x0200#16
  sp            := 0
  stack         := Vector.replicate 16 0x0000#16
  dt            := { count := 0x00#8, setTime := 0, deadline := 128 }
  st            := { count := 0x00#8, setTime := 0, deadline := 128 }
  cycleDeadline := 0
  run           := .running
  fault         := { kind := .none, opcode := 0x0000#16, pc := 0x0000#16 }
  timeBase      := Config.defaultTimeBase
  now           := 0
  inputs        := { keys := 0#16, keyAnswer := none, random := 0#8, stall := 0 }
  inputCount    := 0
  display       := Vector.replicate 32 0#64
  requests      := []

end Sys2Proof.Machine
end

