-- ==== Sys2Proof/Machine/Font.lean ====
section
/-!
DEFINITION. The spec's font table, and what a cell that memory does not list reads as (spec 20_memory R51, R53; 10_state
R34; entry 4).
-/

namespace Sys2Proof.Machine

/-- The table of R53: the 16 glyphs, 5 bytes each, glyph d at 5*d (general knowledge G12; decision D6). -/
def fontBytes : List Byte :=
  [ 0xF0, 0x90, 0x90, 0x90, 0xF0,   -- 0
    0x20, 0x60, 0x20, 0x20, 0x70,   -- 1
    0xF0, 0x10, 0xF0, 0x80, 0xF0,   -- 2
    0xF0, 0x10, 0xF0, 0x10, 0xF0,   -- 3
    0x90, 0x90, 0xF0, 0x10, 0x10,   -- 4
    0xF0, 0x80, 0xF0, 0x10, 0xF0,   -- 5
    0xF0, 0x80, 0xF0, 0x90, 0xF0,   -- 6
    0xF0, 0x10, 0x20, 0x40, 0x40 ]  -- 7
  ++
  [ 0xF0, 0x90, 0xF0, 0x90, 0xF0,   -- 8
    0xF0, 0x90, 0xF0, 0x10, 0xF0,   -- 9
    0xF0, 0x90, 0xF0, 0x90, 0x90,   -- A
    0xE0, 0x90, 0xE0, 0x90, 0xE0,   -- B
    0xF0, 0x80, 0x80, 0x80, 0xF0,   -- C
    0xE0, 0x90, 0x90, 0x90, 0xE0,   -- D
    0xF0, 0x80, 0xF0, 0x80, 0xF0,   -- E
    0xF0, 0x80, 0xF0, 0x80, 0x80 ]  -- F

/-- The spec's table as a configuration (D6): FONT_BYTES of `State.reset`. -/
def defaultFont : FontTable := ⟨fontBytes.toArray, rfl⟩

/-- FONT_BASE (R6, D6). -/
def fontBase : Nat := 0x000

/-- What a cell that memory does not list reads as: the reset image with no ROM and the default font, that is that font at
FONT_BASE and 0x00 in every other cell (R34). With another font `boot` lists the cells that differ. -/
def unlistedByte (a : Nat) : Byte := if fontBase ≤ a then fontBytes.getD (a - fontBase) 0x00#8 else 0x00#8

end Sys2Proof.Machine
end

