-- ==== Sys2Proof/Machine/Ops.lean ====
section
/-!
DEFINITION. The named operations over memory and state, and the core's one exception mechanism.

Memory primitives: 20_memory R55. State writes: 10_state. The PC check and the execute template: 30_encoding R83, R84.
Raising a fault: 60_exceptions R188, R189. There is no return from a fault (R192): nothing here undoes `raise`.
-/

namespace Sys2Proof.Machine

/-! ### Memory (R55). An address is a `Nat`; instructions check `a ≤ 0xFFF` before they call these. -/

/-- MemRead(a, 1). -/
def memRead (m : Memory) (a : Nat) : Byte :=
  match m with
  | []          => unlistedByte a
  | (b, u) :: t => if b = a then u else memRead t a

/-- MemWrite(a, 1, v), keeping the canonical form: rising addresses, no entry equal to what an unlisted cell reads as. -/
def memWrite (m : Memory) (a : Nat) (v : Byte) : Memory :=
  match m with
  | []          => if v = unlistedByte a then [] else [(a, v)]
  | (b, u) :: t =>
    if a < b then (if v = unlistedByte a then (b, u) :: t else (a, v) :: (b, u) :: t)
    else if a = b then (if v = unlistedByte a then t else (a, v) :: t)
    else (b, u) :: memWrite t a v

/-- Bytes stored at `a`, `a + 1`, ... in ascending order (R58). -/
def memWriteBytes (m : Memory) (a : Nat) (bs : List Byte) : Memory :=
  match bs with
  | []      => m
  | v :: vs => memWriteBytes (memWrite m a v) (a + 1) vs

/-- The `n` bytes at `a`, `a + 1`, ..., the lowest address first. -/
def memReadBytes (m : Memory) (a n : Nat) : List Byte :=
  (List.range n).map fun k => memRead m (a + k)

/-- All listed addresses are at least `lo`, strictly rising and inside the 4096 cells, and no entry equals what an
unlisted cell reads as. -/
def memWfFrom (lo : Nat) (m : Memory) : Bool :=
  match m with
  | []          => true
  | (a, u) :: t => decide (lo ≤ a) && decide (a ≤ 0xFFF) && (u != unlistedByte a) && memWfFrom (a + 1) t

/-- The canonical form of memory. -/
def Memory.wf (m : Memory) : Bool := memWfFrom 0 m

/-! ### State reads and writes -/

/-- V[x] (R21). -/
def getV (s : State) (x : Nibble) : Byte := s.v[x.toNat]

/-- `V[x] <- b`. There is no hardwired register: all sixteen are written alike (R21). -/
def setV (x : Nibble) (b : Byte) (s : State) : State := { s with v := s.v.set x.toNat b }

/-- `I <- a` (R23). -/
def setI (a : Addr) (s : State) : State := { s with ireg := a }

/-- `PC <- t`, for a `t` that `pcValid` accepts. -/
def setPc (t : Nat) (s : State) : State := { s with pc := BitVec.ofNat 16 t }

/-- MEM after a store (R20). -/
def setMem (m : Memory) (s : State) : State := { s with mem := m }

/-- A request is sent to a collaborator (60_exceptions R202): it is recorded, the newest first (entry 12). -/
def send (r : Request) (s : State) : State := { s with requests := r :: s.requests }

/-- `run <- r` (R28). -/
def setRun (r : RunState) (s : State) : State := { s with run := r }

/-! ### The call stack (R25) -/

/-- Push, for SP < 16: `STACK[SP] <- w; SP <- SP + 1`. -/
def push (w : Word) (s : State) : State :=
  { s with stack := s.stack.setIfInBounds s.sp.val w, sp := s.sp + 1 }

/-- The value a pop gives, for SP > 0: `STACK[SP - 1]`. -/
def stackTop (s : State) : Word := s.stack.getD (s.sp.val - 1) 0x0000#16

/-- The pointer part of a pop, for SP > 0. The entry keeps its value. -/
def dropTop (s : State) : State := { s with sp := s.sp - 1 }

/-! ### Faults: the machine's only exceptions (60_exceptions section 1) -/

/-- The numeric codes of R180 (decision D11). -/
def FaultKind.code (k : FaultKind) : BitVec 3 :=
  match k with
  | .none                 => 0#3
  | .malformedInstruction => 1#3
  | .stackOverflow        => 2#3
  | .stackUnderflow       => 3#3
  | .addressOutOfRange    => 4#3
  | .invalidKeyIndex      => 5#3
  | .pcOutOfRange         => 6#3
  | .invalidGlyphIndex    => 7#3

/-- Taking the exception `k` while the word `w` executes: "`raise K` does exactly this: `fault <- (code of K, w, PC)`
with w the word being executed and PC its address; `run <- HALTED`" (R189). Nothing else changes (R188). -/
def raise (k : FaultKind) (w : Word) (s : State) : State :=
  { s with fault := { kind := k, opcode := w, pc := s.pc }, run := .halted }

/-! ### PC policy and the execute template (R82, R83, R84) -/

/-- The check of R83 on a value to be written to PC: even and within 0x200..0xFFE. -/
def pcValid (t : Nat) : Bool := decide (t % 2 = 0) && decide (0x200 ≤ t) && decide (t ≤ 0xFFE)

/-- NEXT = PC + 2, a mathematical integer (R8). -/
def nextPc (s : State) : Nat := s.pc.toNat + 2

/-- SKIP = PC + 4 (R8). -/
def skipPc (s : State) : Nat := s.pc.toNat + 4

/-- Steps (4) and (5) of the template R84: the last check, on the next PC `t`; then all writes and requests of the rule
and the PC write together, or PcOutOfRange with none of them. -/
def commit (w : Word) (t : Nat) (writes : State → State) (s : State) : State :=
  if pcValid t then setPc t (writes s) else raise .pcOutOfRange w s

/-- The instruction's own check, step (2) of R84, before everything else: if it fails the fault is raised on the
pre-state (R190 level 2). -/
def guarded (ok : Bool) (k : FaultKind) (w : Word) (body : State → State) (s : State) : State :=
  if ok then body s else raise k w s

/-- "All other instructions advance PC by 2" (R82). -/
def advance (w : Word) (writes : State → State) (s : State) : State := commit w (nextPc s) writes s

/-- A conditional skip: PC + 4 when the condition holds, PC + 2 when not; the check is on the net value (R82). -/
def skipIf (w : Word) (c : Bool) (s : State) : State := commit w (if c then skipPc s else nextPc s) id s

end Sys2Proof.Machine
end

