-- ==== Sys2Proof/Machine/Boot.lean ====
section
/-!
DEFINITION. Reset as construction from the arguments that 92_eei_decisions leaves open: the font table (D6), the ROM image
and the rate (D28). Spec 70_reset_and_hazards R230, R231, R242; 20_memory R53, R54; 10_state R33 to R35.
-/

namespace Sys2Proof.Machine

/-- PROG_BASE, where ROM byte 0 is loaded (R54). -/
def progBase : Nat := 0x200

/-- ROM_MAX, "0x200 + ROM_LEN - 1 ≤ 0xFFF" (R54). -/
def romMax : Nat := 3584

/-- Is the ROM accepted (R231) and is the rate positive (R242)? -/
def bootAccepts (rom : List Byte) (tb : TimeBase) : Bool :=
  decide (rom.length ≤ romMax) && decide (0 < tb.pCycle) && decide (0 < tb.pTick)

/-- Memory after reset: the font at FONT_BASE, the ROM from PROG_BASE on, 0x00 in every other cell (R34). -/
def bootMemory (font : FontTable) (rom : List Byte) : Memory :=
  memWriteBytes (memWriteBytes State.reset.mem fontBase font.toList) progBase rom

/-- Reset with a font table, a ROM, a rate and the time T0 at which reset ends: all state as R33 to R35 say. `none`: "A refusal means no
core exists and no run takes place" (R231); it is no fault and leaves no record. -/
def boot (font : FontTable) (rom : List Byte) (tb : TimeBase) (t0 : Nat) : Option State :=
  if bootAccepts rom tb then
    some { State.reset with
      mem := bootMemory font rom
      dt := { count := 0#8, setTime := t0, deadline := t0 + tb.pTick }
      st := { count := 0#8, setTime := t0, deadline := t0 + tb.pTick }
      cycleDeadline := t0
      timeBase := tb
      now := t0 }
  else none

end Sys2Proof.Machine
end

