-- ==== Sys2Proof/Machine/Operands.lean ====
section
/-!
DEFINITION. Operand forms: register operands, immediates, and the one addressing mode I + offset.

30_encoding R73 (operand assembly), 42_index_memory (addressing), 20_memory R55 (the range check), 41_alu R132.
-/

namespace Sys2Proof.Machine

/-- The register number of VF (R22). -/
def vf : Nibble := 15#4

/-- The register number of V0, Bnnn's offset register (R108, decision D18). -/
def v0 : Nibble := 0#4

/-- The effective address I + offset: a mathematical integer, no wrap (R55). -/
def effAddr (s : State) (offset : Nat) : Nat := s.ireg.toNat + offset

/-- The check of R55 on the largest address an instruction will use. -/
def addrValid (a : Nat) : Bool := decide (a ≤ 0xFFF)

/-- Dxyn's check: "if n > 0 and I + n - 1 > 0xFFF then raise" (R161); with n = 0 there is no access. -/
def spriteInRange (s : State) (n : Nibble) : Bool := decide (n.toNat = 0) || addrValid (effAddr s (n.toNat - 1))

/-- The sprite bytes of Dxyn, row 0 first (R161). -/
def spriteBytes (s : State) (n : Nibble) : List Byte := memReadBytes s.mem (effAddr s 0) n.toNat

/-- A key index or glyph digit is legal when it is at most 15 (R162, R142, R165). -/
def atMost15 (b : Byte) : Bool := decide (b.toNat ≤ 15)

/-- The three decimal digits of a byte, hundreds first (R143). -/
def bcdDigits (b : Byte) : List Byte :=
  [BitVec.ofNat 8 (b.toNat / 100), BitVec.ofNat 8 (b.toNat / 10 % 10), BitVec.ofNat 8 (b.toNat % 10)]

/-- V[0], ..., V[x], the inclusive block of Fx55 (R144). -/
def regBlock (s : State) (x : Nibble) : List Byte := s.v.toList.take (x.toNat + 1)

/-- Fx65's writes: V[i] for i in 0..x from the cells at I + i; the registers above x are kept (R145). The loop of the
rule and this one write agree because no address depends on a register (entry 17). -/
def loadRegs (x : Nibble) (s : State) : State :=
  { s with v := Vector.ofFn fun k : Fin 16 => if k.val ≤ x.toNat then memRead s.mem (effAddr s k.val) else s.v[k] }

/-- The address of the glyph of a digit: FONT_BASE + 5 * digit (R142). -/
def glyphAddr (b : Byte) : Addr := BitVec.ofNat 12 (fontBase + 5 * b.toNat)

end Sys2Proof.Machine
end

