-- ==== Sys2Proof/Machine/Flags.lean ====
section
/-!
DEFINITION. Every flag the machine computes. A flag write stores exactly 0x00 or 0x01 in VF (10_state R22).
-/

namespace Sys2Proof.Machine

/-- A flag as the byte that VF receives (R22). -/
def flagByte (c : Bool) : Byte := if c then 0x01#8 else 0x00#8

/-- Carry of 8xy4: the raw sum exceeds 255 (R126). -/
def carryFlag (a b : Byte) : Byte := flagByte (decide (255 < a.toNat + b.toNat))

/-- No-borrow of 8xy5 and 8xy7: minuend at least the subtrahend (R127, R129, R132). -/
def noBorrowFlag (minuend subtrahend : Byte) : Byte := flagByte (decide (subtrahend.toNat ≤ minuend.toNat))

/-- The bit 8xy6 shifts out: bit 0 (R128). -/
def shrFlag (a : Byte) : Byte := flagByte (a.getLsbD 0)

/-- The bit 8xyE shifts out: bit 7 (R130). -/
def shlFlag (a : Byte) : Byte := flagByte (a.getLsbD 7)

/-- Index overflow of Fx1E: the sum exceeds 0xFFF (R141). -/
def indexFlag (a : Addr) (b : Byte) : Byte := flagByte (decide (0xFFF < a.toNat + b.toNat))

/-- "write VF with the flag, then write V[x] with the result, in that order" (R133): at x = 15 the result remains. -/
def writeFlagThenResult (x : Nibble) (flag result : Byte) (s : State) : State := setV x result (setV vf flag s)

end Sys2Proof.Machine
end

