-- ==== Sys2Proof/Machine/Alu.lean ====
section
/-!
DEFINITION. Register load, arithmetic, logic, shift and random (spec 41_alu R120 to R133). All twelve end with PC + 2.
-/

namespace Sys2Proof.Machine

/-- LD Vx, kk (R120). -/
def execLdVxKk (x : Nibble) (kk : Byte) (s : State) : Result :=
  .next (advance (encode (.ldVxKk x kk)) (setV x kk) s)

/-- ADD Vx, kk: modulo 256, VF is not written (R121). -/
def execAddVxKk (x : Nibble) (kk : Byte) (s : State) : Result :=
  .next (advance (encode (.addVxKk x kk)) (setV x (getV s x + kk)) s)

/-- LD Vx, Vy (R122). -/
def execLdVxVy (x y : Nibble) (s : State) : Result :=
  .next (advance (encode (.ldVxVy x y)) (setV x (getV s y)) s)

/-- OR Vx, Vy: no flag side effect (R123). -/
def execOrVxVy (x y : Nibble) (s : State) : Result :=
  .next (advance (encode (.orVxVy x y)) (setV x (getV s x ||| getV s y)) s)

/-- AND Vx, Vy: no flag side effect (R124). -/
def execAndVxVy (x y : Nibble) (s : State) : Result :=
  .next (advance (encode (.andVxVy x y)) (setV x (getV s x &&& getV s y)) s)

/-- XOR Vx, Vy: no flag side effect (R125). -/
def execXorVxVy (x y : Nibble) (s : State) : Result :=
  .next (advance (encode (.xorVxVy x y)) (setV x (getV s x ^^^ getV s y)) s)

/-- ADD Vx, Vy with carry into VF (R126, R133). -/
def execAddVxVy (x y : Nibble) (s : State) : Result :=
  .next (advance (encode (.addVxVy x y))
    (writeFlagThenResult x (carryFlag (getV s x) (getV s y)) (getV s x + getV s y)) s)

/-- SUB Vx, Vy with no-borrow into VF (R127, R133). -/
def execSubVxVy (x y : Nibble) (s : State) : Result :=
  .next (advance (encode (.subVxVy x y))
    (writeFlagThenResult x (noBorrowFlag (getV s x) (getV s y)) (getV s x - getV s y)) s)

/-- SHR Vx: V[x] in place, V[y] never read, bit 0 into VF (R128, decision D13, R133). -/
def execShrVx (x y : Nibble) (s : State) : Result :=
  .next (advance (encode (.shrVx x y)) (writeFlagThenResult x (shrFlag (getV s x)) (getV s x >>> 1)) s)

/-- SUBN Vx, Vy: V[y] - V[x] into V[x], no-borrow into VF (R129, R133). -/
def execSubnVxVy (x y : Nibble) (s : State) : Result :=
  .next (advance (encode (.subnVxVy x y))
    (writeFlagThenResult x (noBorrowFlag (getV s y) (getV s x)) (getV s y - getV s x)) s)

/-- SHL Vx: V[x] in place, V[y] never read, bit 7 into VF (R130, decision D13, R133). -/
def execShlVx (x y : Nibble) (s : State) : Result :=
  .next (advance (encode (.shlVx x y)) (writeFlagThenResult x (shlFlag (getV s x)) (getV s x <<< 1)) s)

/-- RND Vx, kk: one byte is drawn, also when kk = 0; a faulting one draws none (R131). The byte is a free value
(60_exceptions R212, entry 6). -/
def execRndVxKk (x : Nibble) (kk : Byte) (s : State) : Result :=
  .next (advance (encode (.rndVxKk x kk)) (fun t => send .rngByte (setV x (s.inputs.random &&& kk) t)) s)

end Sys2Proof.Machine
end

