-- ==== Sys2Proof/Machine/ControlFlow.lean ====
section
/-!
DEFINITION. The control-flow instructions (spec 40_control_flow R100 to R108). The keyboard skips are in Peripheral.lean.
-/

namespace Sys2Proof.Machine

/-- SYS nnn: "they only advance PC" (R100). -/
def execSys (nnn : Addr) (s : State) : Result := .next (advance (encode (.sys nnn)) id s)

/-- RET: StackUnderflow when empty; else PC becomes exactly the popped value, range-checked, and SP drops (R101). -/
def execRet (s : State) : Result :=
  .next (guarded (decide (s.sp.val ≠ 0)) .stackUnderflow (encode .ret) (commit (encode .ret) (stackTop s).toNat dropTop) s)

/-- JP nnn (R102). -/
def execJp (nnn : Addr) (s : State) : Result := .next (commit (encode (.jp nnn)) nnn.toNat id s)

/-- CALL nnn: StackOverflow when full; else PC + 2 is pushed unchecked and PC becomes nnn (R103, decision D32). -/
def execCall (nnn : Addr) (s : State) : Result :=
  .next (guarded (decide (s.sp.val ≠ 16)) .stackOverflow (encode (.call nnn))
    (commit (encode (.call nnn)) nnn.toNat (push (s.pc + 2#16))) s)

/-- SE Vx, kk (R104). -/
def execSeVxKk (x : Nibble) (kk : Byte) (s : State) : Result :=
  .next (skipIf (encode (.seVxKk x kk)) (getV s x == kk) s)

/-- SNE Vx, kk (R105). -/
def execSneVxKk (x : Nibble) (kk : Byte) (s : State) : Result :=
  .next (skipIf (encode (.sneVxKk x kk)) (getV s x != kk) s)

/-- SE Vx, Vy (R106). -/
def execSeVxVy (x y : Nibble) (s : State) : Result :=
  .next (skipIf (encode (.seVxVy x y)) (getV s x == getV s y) s)

/-- SNE Vx, Vy (R107). -/
def execSneVxVy (x y : Nibble) (s : State) : Result :=
  .next (skipIf (encode (.sneVxVy x y)) (getV s x != getV s y) s)

/-- JP V0, nnn: the sum is a mathematical integer, not reduced before the range check (R108). -/
def execJpV0Nnn (nnn : Addr) (s : State) : Result :=
  .next (commit (encode (.jpV0Nnn nnn)) (nnn.toNat + (getV s v0).toNat) id s)

end Sys2Proof.Machine
end

