-- ==== Sys2Proof/Machine/IndexMemory.lean ====
section
/-!
DEFINITION. Index register, loads and stores (spec 42_index_memory R140 to R145). All six end with PC + 2; I is never
modified by an access.
-/

namespace Sys2Proof.Machine

/-- LD I, nnn (R140). -/
def execLdINnn (nnn : Addr) (s : State) : Result := .next (advance (encode (.ldINnn nnn)) (setI nnn) s)

/-- ADD I, Vx: modulo 0x1000, VF = index overflow, written on every execution (R141). -/
def execAddIVx (x : Nibble) (s : State) : Result :=
  .next (advance (encode (.addIVx x))
    (fun t => setV vf (indexFlag s.ireg (getV s x)) (setI (BitVec.ofNat 12 (s.ireg.toNat + (getV s x).toNat)) t)) s)

/-- LD F, Vx: InvalidGlyphIndex above 15 (R142, decision D16). -/
def execLdFVx (x : Nibble) (s : State) : Result :=
  .next (guarded (atMost15 (getV s x)) .invalidGlyphIndex (encode (.ldFVx x))
    (advance (encode (.ldFVx x)) (setI (glyphAddr (getV s x)))) s)

/-- LD B, Vx: three digits at I, I + 1, I + 2; the range is checked before the first store (R143, R55). -/
def execLdBVx (x : Nibble) (s : State) : Result :=
  .next (guarded (addrValid (effAddr s 2)) .addressOutOfRange (encode (.ldBVx x))
    (advance (encode (.ldBVx x)) (setMem (memWriteBytes s.mem (effAddr s 0) (bcdDigits (getV s x))))) s)

/-- LD [I], Vx: V[0]..V[x] stored at I.. (R144, R55). -/
def execLdMemVx (x : Nibble) (s : State) : Result :=
  .next (guarded (addrValid (effAddr s x.toNat)) .addressOutOfRange (encode (.ldMemVx x))
    (advance (encode (.ldMemVx x)) (setMem (memWriteBytes s.mem (effAddr s 0) (regBlock s x)))) s)

/-- LD Vx, [I]: V[0]..V[x] loaded from I.. (R145, R55). -/
def execLdVxMem (x : Nibble) (s : State) : Result :=
  .next (guarded (addrValid (effAddr s x.toNat)) .addressOutOfRange (encode (.ldVxMem x))
    (advance (encode (.ldVxMem x)) (loadRegs x)) s)

end Sys2Proof.Machine
end

