-- ==== Sys2Proof/Machine/Display.lean ====
section
/-!
DEFINITION. The reference display (60_exceptions R203, R204, R206; decision D19; entry 11): 64 columns by 32 rows, bit 7
of a sprite byte leftmost, every pixel coordinate wrapped, XOR, collision = some pixel went from set to unset.
-/

namespace Sys2Proof.Machine

/-- A pixel (px, py): column from the left, row from the top (R206). -/
abbrev Pixel := Fin 64 × Fin 32

/-- P[px][py]. -/
def pixelSet (d : Bitmap) (p : Pixel) : Bool := (d[p.2]).getLsbD p.1.val

/-- `P[px][py] <- P[px][py] xor 1`. -/
def pixelFlip (d : Bitmap) (p : Pixel) : Bitmap := d.set p.2 (d[p.2] ^^^ BitVec.twoPow 64 p.1.val)

/-- The pixels that row `r` of a sprite targets, from the left (R206): bit 7 - c of the byte is column c. -/
def rowPixels (b : Byte) (x y r : Nat) : List Pixel :=
  (List.range 8).filterMap fun c =>
    if b.getLsbD (7 - c) then some (Fin.ofNat 64 (x + c), Fin.ofNat 32 (y + r)) else none

/-- The pixels a sprite targets, rows `r`, `r + 1`, ... in order. -/
def spritePixels (bytes : List Byte) (x y r : Nat) : List Pixel :=
  match bytes with
  | []      => []
  | b :: bs => rowPixels b x y r ++ spritePixels bs x y (r + 1)

/-- One targeted pixel: collision if it was set, then it flips. -/
def drawPixel (cd : Bool × Bitmap) (p : Pixel) : Bool × Bitmap := (cd.1 || pixelSet cd.2 p, pixelFlip cd.2 p)

/-- `draw(bytes, x, y)` on a bitmap: the collision answer and the bitmap after (R206). -/
def drawSprite (d : Bitmap) (bytes : List Byte) (x y : Byte) : Bool × Bitmap :=
  (spritePixels bytes x.toNat y.toNat 0).foldl drawPixel (false, d)

/-- The bitmap with every pixel unset (R203, R206). -/
def blankBitmap : Bitmap := Vector.replicate 32 0#64

/-- The request Display.clear() and what the display does with it (R203). -/
def displayClear (s : State) : State := send .displayClear { s with display := blankBitmap }

/-- The collision answer that Display.draw(bytes, x, y) gives in state s (R204). -/
def drawAnswer (bytes : List Byte) (x y : Byte) (s : State) : Bool := (drawSprite s.display bytes x y).1

/-- The request Display.draw(bytes, x, y) and what the display does with it (R204). -/
def displayDraw (bytes : List Byte) (x y : Byte) (s : State) : State :=
  send (.displayDraw bytes x y) { s with display := (drawSprite s.display bytes x y).2 }

end Sys2Proof.Machine
end

