-- ==== Sys2Proof/Machine/Timers.lean ====
section
/-!
DEFINITION. The countdown timers (60_exceptions R196 to R199).
-/

namespace Sys2Proof.Machine

/-- `T.setTimer(v, now)` without its on-set hook: count, last-set time and deadline = now + P_TICK (R197). -/
def timerSet (tb : TimeBase) (b : Byte) (now : Nat) : Timer :=
  { count := b, setTime := now, deadline := now + tb.pTick }

/-- `T.check(now)`: at most one decrement; the deadline advances by exactly one tick; at count 0 nothing (R198). -/
def timerCheck (tb : TimeBase) (now : Nat) (t : Timer) : Timer :=
  if t.count ≠ 0#8 ∧ t.deadline ≤ now then
    { t with count := t.count - 1#8, deadline := t.deadline + tb.pTick }
  else t

/-- `T.getTimer()`: the count, no side effect (R199). -/
def timerGet (t : Timer) : Byte := t.count

/-- DT.setTimer(b, now): "the delay timer's hook is a no-op" (R196, R197). -/
def setDelayTimer (b : Byte) (s : State) : State := { s with dt := timerSet s.timeBase b s.now }

/-- ST.setTimer(b, now): its on-set hook sends Sound.tone(b), also for b = 0 (R197, R211, decision D25). -/
def setSoundTimer (b : Byte) (s : State) : State := send (.tone b) { s with st := timerSet s.timeBase b s.now }

end Sys2Proof.Machine
end

