-- ==== Sys2Proof/Machine/Peripheral.lean ====
section
/-!
DEFINITION. Display, keyboard and timer instructions (spec 43_peripheral R160 to R167).
-/

namespace Sys2Proof.Machine

/-- CLS: the PC check, one clear request, PC + 2 (R160). -/
def execCls (s : State) : Result := .next (advance (encode .cls) displayClear s)

/-- DRW Vx, Vy, n: the range check, the PC check, one draw request with the n bytes at I and the raw coordinates read
before VF is written, VF = collision (R161). -/
def execDrwVxVyN (x y n : Nibble) (s : State) : Result :=
  .next (guarded (spriteInRange s n) .addressOutOfRange (encode (.drwVxVyN x y n))
    (advance (encode (.drwVxVyN x y n)) (fun t =>
      setV vf (flagByte (drawAnswer (spriteBytes s n) (getV s x) (getV s y) s))
        (displayDraw (spriteBytes s n) (getV s x) (getV s y) t))) s)

/-- The answer of Keyboard.isPressed(k) in this cycle, a free value (60_exceptions R207, entry 6). -/
def isPressed (s : State) (k : Nibble) : Bool := s.inputs.keys.getLsbD k.toNat

/-- The key index in V[x], once it is known to be at most 15. -/
def keyIndex (s : State) (x : Nibble) : Nibble := (getV s x).setWidth 4

/-- SKP Vx: InvalidKeyIndex above 15 before the query; skip when pressed (R162, decision D15). -/
def execSkpVx (x : Nibble) (s : State) : Result :=
  .next (guarded (atMost15 (getV s x)) .invalidKeyIndex (encode (.skpVx x))
    (fun t => skipIf (encode (.skpVx x)) (isPressed s (keyIndex s x)) (send (.isPressed (keyIndex s x)) t)) s)

/-- SKNP Vx: as SKP, skip when not pressed; the register is V[x] (R163). -/
def execSknpVx (x : Nibble) (s : State) : Result :=
  .next (guarded (atMost15 (getV s x)) .invalidKeyIndex (encode (.sknpVx x))
    (fun t => skipIf (encode (.sknpVx x)) (!isPressed s (keyIndex s x)) (send (.isPressed (keyIndex s x)) t)) s)

/-- LD Vx, DT: the count after this cycle's check (R164). -/
def execLdVxDt (x : Nibble) (s : State) : Result := .next (advance (encode (.ldVxDt x)) (setV x (timerGet s.dt)) s)

/-- The end of Fx0A once the keyboard has answered k: InvalidKeyIndex above 15, else V[x] = k, RUN, PC + 2 (R165). -/
def keyAnswered (x : Nibble) (k : Byte) (s : State) : State :=
  guarded (atMost15 k) .invalidKeyIndex (encode (.ldVxK x))
    (advance (encode (.ldVxK x)) (fun t => setRun .running (setV x k t))) s

/-- One look at the keyboard's answer while Fx0A waits: none yet is WAIT_KEY, with nothing else changed (R165, R208). -/
def awaitKey (x : Nibble) (s : State) : State :=
  match s.inputs.keyAnswer with
  | none   => setRun (.waitKey x) s
  | some k => keyAnswered x k s

/-- LD Vx, K: the request, and the answer if it is there at once; otherwise the core waits (R165). Later looks are
`pollKey` of RunLoop.lean. -/
def execLdVxK (x : Nibble) (s : State) : Result := .next (awaitKey x (send .waitForAnyKey s))

/-- LD DT, Vx (R166). -/
def execLdDtVx (x : Nibble) (s : State) : Result := .next (advance (encode (.ldDtVx x)) (setDelayTimer (getV s x)) s)

/-- LD ST, Vx: sets the sound timer, one tone request (R167). -/
def execLdStVx (x : Nibble) (s : State) : Result := .next (advance (encode (.ldStVx x)) (setSoundTimer (getV s x)) s)

end Sys2Proof.Machine
end

