-- ==== Sys2Proof/Machine/Dispatch.lean ====
section
/-! DEFINITION. exec: one arm per instruction, each a call of its meaning. -/

namespace Sys2Proof.Machine

def exec (i : Instr) (s : State) : Host.Outcome State Fault Refusal :=
  match i with
  | .cls => Sys2Proof.Machine.execCls s
  | .ret => Sys2Proof.Machine.execRet s
  | .sys nnn => Sys2Proof.Machine.execSys nnn s
  | .jp nnn => Sys2Proof.Machine.execJp nnn s
  | .call nnn => Sys2Proof.Machine.execCall nnn s
  | .seVxKk x kk => Sys2Proof.Machine.execSeVxKk x kk s
  | .sneVxKk x kk => Sys2Proof.Machine.execSneVxKk x kk s
  | .seVxVy x y => Sys2Proof.Machine.execSeVxVy x y s
  | .ldVxKk x kk => Sys2Proof.Machine.execLdVxKk x kk s
  | .addVxKk x kk => Sys2Proof.Machine.execAddVxKk x kk s
  | .ldVxVy x y => Sys2Proof.Machine.execLdVxVy x y s
  | .orVxVy x y => Sys2Proof.Machine.execOrVxVy x y s
  | .andVxVy x y => Sys2Proof.Machine.execAndVxVy x y s
  | .xorVxVy x y => Sys2Proof.Machine.execXorVxVy x y s
  | .addVxVy x y => Sys2Proof.Machine.execAddVxVy x y s
  | .subVxVy x y => Sys2Proof.Machine.execSubVxVy x y s
  | .shrVx x y => Sys2Proof.Machine.execShrVx x y s
  | .subnVxVy x y => Sys2Proof.Machine.execSubnVxVy x y s
  | .shlVx x y => Sys2Proof.Machine.execShlVx x y s
  | .sneVxVy x y => Sys2Proof.Machine.execSneVxVy x y s
  | .ldINnn nnn => Sys2Proof.Machine.execLdINnn nnn s
  | .jpV0Nnn nnn => Sys2Proof.Machine.execJpV0Nnn nnn s
  | .rndVxKk x kk => Sys2Proof.Machine.execRndVxKk x kk s
  | .drwVxVyN x y n => Sys2Proof.Machine.execDrwVxVyN x y n s
  | .skpVx x => Sys2Proof.Machine.execSkpVx x s
  | .sknpVx x => Sys2Proof.Machine.execSknpVx x s
  | .ldVxDt x => Sys2Proof.Machine.execLdVxDt x s
  | .ldVxK x => Sys2Proof.Machine.execLdVxK x s
  | .ldDtVx x => Sys2Proof.Machine.execLdDtVx x s
  | .ldStVx x => Sys2Proof.Machine.execLdStVx x s
  | .addIVx x => Sys2Proof.Machine.execAddIVx x s
  | .ldFVx x => Sys2Proof.Machine.execLdFVx x s
  | .ldBVx x => Sys2Proof.Machine.execLdBVx x s
  | .ldMemVx x => Sys2Proof.Machine.execLdMemVx x s
  | .ldVxMem x => Sys2Proof.Machine.execLdVxMem x s

end Sys2Proof.Machine
end

