-- ==== Sys2Proof/Machine/RunLoop.lean ====
section
/-!
DEFINITION. The run loop: what one cycle does around `exec`, and the wait of Fx0A (spec 70_reset_and_hazards R235 to R238,
30_encoding R70).
-/

namespace Sys2Proof.Machine

/-- A fresh set of the environment's answers, free values (entry 6). -/
def takeInputs (s : State) : State := { s with inputs := Config.inputs s.inputCount, inputCount := s.inputCount + 1 }

/-- The cycle's one clock sample t_k = max(D_k, end of cycle k-1), and D_(k+1) = D_k + P_CYCLE (R237, R213, entries 8
and 10). -/
def startClock (s : State) : State :=
  send .clockNow { s with now := max s.cycleDeadline s.now, cycleDeadline := s.cycleDeadline + s.timeBase.pCycle }

/-- DT.check(now), then ST.check(now), with the same now (R236, R198). -/
def checkTimers (s : State) : State :=
  { s with dt := timerCheck s.timeBase s.now s.dt, st := timerCheck s.timeBase s.now s.st }

/-- Everything a cycle does before it fetches: the clock sample, both timer checks, the display poll (R236). -/
def beginCycle (s : State) : State := send .displayCheck (checkTimers (startClock (takeInputs s)))

/-- The instruction word at PC: "read two consecutive memory bytes at PC, combine big-endian" (R70, R56). -/
def fetchWord (s : State) : Word := wordOfBytes (memRead s.mem s.pc.toNat) (memRead s.mem (s.pc.toNat + 1))

/-- Decode and execute one fetched word; a malformed word raises MalformedInstruction (R84 step (1), 60_exceptions R181). -/
def runWord (w : Word) (s : State) : Result :=
  match decodeWord w with
  | some ins => exec ins s
  | none     => .next (raise .malformedInstruction w s)

/-- One cycle in state RUN (R236). The fetch needs two cells that exist (entry 14). -/
def runCycle (s : State) : Result :=
  if s.pc.toNat + 1 ≤ 0xFFF then runWord (fetchWord (beginCycle s)) (beginCycle s)
  else .fault (.fetchOutsideMemory s.pc)

/-- Nat passes while Fx0A waits, by a free amount (43_peripheral R165, entry 7). -/
def passStall (s : State) : State := { s with now := s.now + s.inputs.stall }

/-- One more look at the keyboard in state WAIT_KEY: no cycle starts, no timer is checked, no display poll is made (R165,
60_exceptions R201 (b)). -/
def pollKey (x : Nibble) (s : State) : Result := .next (awaitKey x (passStall (takeInputs s)))

/-- One step of the core by its run state (R235). HALTED is absorbing: nothing changes (10_state R28, R36 (d), entry 1). -/
def runStep (s : State) : Result :=
  match s.run with
  | .running   => runCycle s
  | .waitKey x => pollKey x s
  | .halted    => .next s

end Sys2Proof.Machine
end

