-- ==== Sys2Proof/Machine/Step.lean ====
section
/-!
DEFINITION. One step of the machine, and an instruction placed where the next step fetches it.

A program reaches the core as the ROM image of reset (`boot`, 70_reset_and_hazards R231); `State.reset` has the empty ROM.
`withFetchWord` stands for that load (entry 5).
-/

namespace Sys2Proof.Machine

/-- One step: a cycle in state RUN, one look at the keyboard in WAIT_KEY, nothing in HALTED (70_reset_and_hazards R235). -/
def step (s : State) : Host.Outcome State Fault Refusal := Sys2Proof.Machine.runStep s

/-- `s` with the instruction whose bits are `w` stored at PC, its two bytes big-endian (20_memory R56). The core fetches at
PC in state RUN and nothing else is needed. -/
def State.withFetchWord (s : State) (nbits w : Nat) : State :=
  { s with mem := Sys2Proof.Machine.memWriteBytes s.mem s.pc.toNat (Sys2Proof.bytesOfWord (Sys2Proof.tableWord nbits w)) }

end Sys2Proof.Machine
end

