-- ==== Sys2Proof/Safety.lean ====
section
/-!
DEFINITION. What counts as a safe run, in the terms the claims use.

A run is safe while the core has not raised a fault (run is not HALTED) and the model has not stopped. The invariant
`Inv` is 10_state R36 with what the other rules say of states a run can reach.
-/

namespace Sys2Proof.Machine

/-- A value that PC may take: "Always even; valid range [0x200, 0xFFE]" (10_state R24). -/
def PcTarget (t : Nat) : Prop := t % 2 = 0 ∧ 0x200 ≤ t ∧ t ≤ 0xFFE

/-- The state that a fault of kind `k` leaves when the word `w` was executing: the record is written, the core is HALTED,
and nothing else differs from the state before (60_exceptions R188, R189). -/
def haltedWith (k : FaultKind) (w : Word) (s : State) : State :=
  { s with fault := { kind := k, opcode := w, pc := s.pc }, run := .halted }

/-- No fault has been raised. -/
def State.alive (s : State) : Prop := s.run ≠ .halted

/-- A return address that a CALL can have pushed: even and in 0x202..0x1000 (10_state R25). -/
def ReturnAddress (w : Word) : Prop := w.toNat % 2 = 0 ∧ 0x202 ≤ w.toNat ∧ w.toNat ≤ 0x1000

/-- What holds in every state a run from reset can reach. -/
structure Inv (s : State) : Prop where
  /-- memory keeps its canonical form, so every listed cell is one of the 4096 (R20, R50) -/
  memory  : Memory.wf s.mem = true
  /-- R36 (a) -/
  pc      : PcTarget s.pc.toNat
  /-- R25: the entries in use are return addresses -/
  stack   : ∀ k : Fin 16, k.val < s.sp.val → ReturnAddress s.stack[k]
  /-- R36 (e) -/
  fault   : s.fault.kind ≠ .none ↔ s.run = .halted
  /-- R189, R188: a halted core stands at the word its record names -/
  record  : s.run = .halted → s.fault.pc = s.pc ∧ s.fault.opcode = fetchWord s
  /-- 43_peripheral R165: a waiting core stands at the Fx0A that waits -/
  waiting : ∀ x, s.run = .waitKey x → fetchWord s = encode (.ldVxK x)

/-- The general registers an instruction may write: its destination `x`, the block V0..Vx of Fx65, and VF where the rule
sets a flag (10_state R21, R22). -/
def mayWriteV (ins : Instr) (r : Nibble) : Prop :=
  match ins with
  | .ldVxKk x _ | .addVxKk x _ | .ldVxVy x _ | .orVxVy x _ | .andVxVy x _ | .xorVxVy x _ | .rndVxKk x _
  | .ldVxDt x | .ldVxK x => r = x
  | .addVxVy x _ | .subVxVy x _ | .shrVx x _ | .subnVxVy x _ | .shlVx x _ => r = x ∨ r = 15#4
  | .addIVx _ | .drwVxVyN _ _ _ => r = 15#4
  | .ldVxMem x => r.toNat ≤ x.toNat
  | .cls | .ret | .sys _ | .jp _ | .call _ | .seVxKk _ _ | .sneVxKk _ _ | .seVxVy _ _ | .sneVxVy _ _ | .ldINnn _
  | .jpV0Nnn _ | .skpVx _ | .sknpVx _ | .ldDtVx _ | .ldStVx _ | .ldFVx _ | .ldBVx _ | .ldMemVx _ => False

/-- The instructions whose result depends on an answer of the environment held in `inputs` (93 U8, U9, U10). -/
def readsInputs (ins : Instr) : Prop :=
  match ins with
  | .rndVxKk _ _ | .skpVx _ | .sknpVx _ | .ldVxK _ => True
  | .cls | .ret | .sys _ | .jp _ | .call _ | .seVxKk _ _ | .sneVxKk _ _ | .seVxVy _ _ | .ldVxKk _ _ | .addVxKk _ _
  | .ldVxVy _ _ | .orVxVy _ _ | .andVxVy _ _ | .xorVxVy _ _ | .addVxVy _ _ | .subVxVy _ _ | .shrVx _ _ | .subnVxVy _ _
  | .shlVx _ _ | .sneVxVy _ _ | .ldINnn _ | .jpV0Nnn _ | .drwVxVyN _ _ _ | .ldVxDt _ | .ldDtVx _ | .ldStVx _
  | .addIVx _ | .ldFVx _ | .ldBVx _ | .ldMemVx _ | .ldVxMem _ => False

/-- The timer after the checks made at these times, in order (60_exceptions R198). -/
def checksAt (tb : TimeBase) (times : List Nat) (t : Timer) : Timer :=
  match times with
  | []      => t
  | n :: ns => checksAt tb ns (timerCheck tb n t)

/-- The times do not go backwards and no gap is wider than `gap`, counted from `prev` (60_exceptions R200). -/
def SpacedBy (gap prev : Nat) (times : List Nat) : Prop :=
  match times with
  | []      => True
  | n :: ns => prev ≤ n ∧ n ≤ prev + gap ∧ SpacedBy gap n ns

/-- The last of the times, or `prev` if there is none. -/
def lastTime (prev : Nat) (times : List Nat) : Nat :=
  match times with
  | []      => prev
  | n :: ns => lastTime n ns

/-- A pixel that a sprite targets: column `c` of row `r` has its bit set (60_exceptions R206). -/
def Targets (bytes : List Byte) (x y : Byte) (p : Pixel) : Prop :=
  ∃ r c : Nat, r < bytes.length ∧ c < 8 ∧ (bytes.getD r 0#8).getLsbD (7 - c) = true ∧
    p.1.val = (x.toNat + c) % 64 ∧ p.2.val = (y.toNat + r) % 32

end Sys2Proof.Machine
end

