-- ==== Sys2Proof/Certificates/Slice0/Obligations.lean ====
section
/-!
DEFINITION. The statements for the provers.

How to read them. `exec ins s = .next t` says that the instruction completes with state `t`. A frame is written as one
equation: `t = { s with v := t.v, pc := t.pc }` says that every field of the state but `v` and `pc` is as before.
`PcTarget` is the range that PC may take; `haltedWith k w s` is `s` with the fault record (k, w, PC) and run = HALTED and
nothing else changed. `getV s r` is V[r], `memRead m a` the byte of cell a, `effAddr s k` the address I + k.
An instruction of which several statements speak has its completion in the one named after it.

What rests on the spec's own decisions throughout: that a next PC out of range faults (D8), that a fault changes nothing
but the record and the run state (D9), what the record holds (D11), and which fault is reported first (D10).
-/

open Sys2Proof Sys2Proof.Machine

/-! ### Decoding and encoding -/

/-- At least one word of each of the sixteen families, written out from the patterns of 30_encoding section 2 (several are
the words of 95_test_vectors V-ENC), malformed words of the families that have them, and the byte order of a fetched word. -/
def Obligations.DecodeReadsSpecWords : Prop :=
  decodeWord 0x00E0#16 = some .cls ∧ decodeWord 0x00EE#16 = some .ret ∧ decodeWord 0x01E0#16 = some (.sys 0x1E0#12) ∧
  decodeWord 0x1ABC#16 = some (.jp 0xABC#12) ∧ decodeWord 0x2345#16 = some (.call 0x345#12) ∧
  decodeWord 0x3A05#16 = some (.seVxKk 0xA#4 0x05#8) ∧ decodeWord 0x4B16#16 = some (.sneVxKk 0xB#4 0x16#8) ∧
  decodeWord 0x5AB0#16 = some (.seVxVy 0xA#4 0xB#4) ∧ decodeWord 0x5AB1#16 = none ∧
  decodeWord 0x6C27#16 = some (.ldVxKk 0xC#4 0x27#8) ∧ decodeWord 0x7D38#16 = some (.addVxKk 0xD#4 0x38#8) ∧
  decodeWord 0x8AB7#16 = some (.subnVxVy 0xA#4 0xB#4) ∧ decodeWord 0x8ABE#16 = some (.shlVx 0xA#4 0xB#4) ∧
  decodeWord 0x8AB8#16 = none ∧
  decodeWord 0x9AB0#16 = some (.sneVxVy 0xA#4 0xB#4) ∧ decodeWord 0x9AB8#16 = none ∧
  decodeWord 0xA2F1#16 = some (.ldINnn 0x2F1#12) ∧ decodeWord 0xB3E2#16 = some (.jpV0Nnn 0x3E2#12) ∧
  decodeWord 0xC49D#16 = some (.rndVxKk 0x4#4 0x9D#8) ∧ decodeWord 0xD015#16 = some (.drwVxVyN 0x0#4 0x1#4 0x5#4) ∧
  decodeWord 0xEF9E#16 = some (.skpVx 0xF#4) ∧ decodeWord 0xE09F#16 = none ∧
  decodeWord 0xF055#16 = some (.ldMemVx 0x0#4) ∧ decodeWord 0xF075#16 = none ∧
  decodeBytes [0x12#8, 0x34#8, 0x56#8] = .ok (.jp 0x234#12, [0x56#8])

/-- Every well-formed instruction, with every operand at every value, is decoded from its own word. -/
def Obligations.DecodeInvertsEncode : Prop :=
  ∀ ins : Instr, ins.wellFormed = true → decodeWord (encode ins) = some ins

/-- A word that decodes is the word of the instruction it decodes to, and that instruction is well-formed: no bit of a
legal word is dropped, so the fault record's opcode (written with `encode`, entry 21) is the fetched word. -/
def Obligations.EncodeInvertsDecode : Prop :=
  ∀ (w : Word) (ins : Instr), decodeWord w = some ins → encode ins = w ∧ ins.wellFormed = true

/-- The malformed words are exactly those of the table of 30_encoding section 3 (with the spec's decision D14). -/
def Obligations.MalformedWordsAreThoseOfTheTable : Prop :=
  ∀ w : Word, decodeWord w = none ↔
    (w.toNat / 0x1000 = 0x5 ∧ w.toNat % 0x10 ≠ 0) ∨
    (w.toNat / 0x1000 = 0x9 ∧ w.toNat % 0x10 ≠ 0) ∨
    (w.toNat / 0x1000 = 0x8 ∧ w.toNat % 0x10 ∈ [0x8, 0x9, 0xA, 0xB, 0xC, 0xD, 0xF]) ∨
    (w.toNat / 0x1000 = 0xE ∧ w.toNat % 0x100 ∉ [0x9E, 0xA1]) ∨
    (w.toNat / 0x1000 = 0xF ∧ w.toNat % 0x100 ∉ [0x07, 0x0A, 0x15, 0x18, 0x1E, 0x29, 0x33, 0x55, 0x65])

/-! ### The step -/

/-- In state RUN, when the two bytes at PC decode to `ins`, the step is `exec ins` on the state after what a cycle does
first (70_reset_and_hazards section 2): fresh inputs of the environment (entry 6), the clock sample
max(cycle_deadline, now), the next deadline one P_CYCLE on (decisions D2 and D23, entries 8 and 10), both timers checked with
that one sample, and the two requests. -/
def Obligations.StepRunsTheDecodedInstruction : Prop :=
  ∀ (s : State) (ins : Instr), s.run = .running → s.pc.toNat + 1 ≤ 0xFFF →
    decodeWord (wordOfBytes (memRead s.mem s.pc.toNat) (memRead s.mem (s.pc.toNat + 1))) = some ins →
    step s = exec ins { s with
      inputs := Config.inputs s.inputCount
      inputCount := s.inputCount + 1
      now := max s.cycleDeadline s.now
      cycleDeadline := s.cycleDeadline + s.timeBase.pCycle
      dt := timerCheck s.timeBase (max s.cycleDeadline s.now) s.dt
      st := timerCheck s.timeBase (max s.cycleDeadline s.now) s.st
      requests := .displayCheck :: .clockNow :: s.requests }

/-- A fetched word that matches no row raises MalformedInstruction: the record holds the word and the address it was fetched
from and the core halts. All else is what the cycle did before (95_test_vectors V-FLT-4), exactly as in
`StepRunsTheDecodedInstruction`: fresh inputs (entry 6), the one clock sample max(cycle_deadline, now) and the next deadline
(decisions D2 and D23, entries 8 and 10), both timers checked once with it, the two requests (faults are precise: decision
D9). Words 0x0nnn are never malformed. -/
def Obligations.MalformedWordHaltsTheCore : Prop :=
  (∀ (s : State) (w : Word), s.run = .running → s.pc.toNat + 1 ≤ 0xFFF →
    wordOfBytes (memRead s.mem s.pc.toNat) (memRead s.mem (s.pc.toNat + 1)) = w → decodeWord w = none →
    step s = .next (haltedWith .malformedInstruction w { s with
      inputs := Config.inputs s.inputCount
      inputCount := s.inputCount + 1
      now := max s.cycleDeadline s.now
      cycleDeadline := s.cycleDeadline + s.timeBase.pCycle
      dt := timerCheck s.timeBase (max s.cycleDeadline s.now) s.dt
      st := timerCheck s.timeBase (max s.cycleDeadline s.now) s.st
      requests := .displayCheck :: .clockNow :: s.requests })) ∧
  (∀ w : Word, w.toNat < 0x1000 → decodeWord w ≠ none)

/-- Once HALTED, nothing changes: no cycle starts, no timer is checked, no request is sent (entry 1). -/
def Obligations.HaltedCoreNeverChanges : Prop :=
  ∀ s : State, s.run = .halted → step s = .next s

/-- While Fx0A waits, a step takes one fresh set of inputs, lets time pass, and otherwise changes nothing unless the keyboard
answers: no timer is checked, no poll or other request is made. An answer up to 15 completes the Fx0A, an answer above 15
or a next PC out of range halts the core (entry 7 is the model's granularity of the wait). -/
def Obligations.WaitingCoreFreezesEverythingButTheClock : Prop :=
  ∀ (s : State) (x : Nibble), s.run = .waitKey x →
    ∃ t, step s = .next t ∧
      t.inputs = Config.inputs s.inputCount ∧ t.inputCount = s.inputCount + 1 ∧ t.now = s.now + t.inputs.stall ∧
      t = { s with inputs := t.inputs, inputCount := t.inputCount, now := t.now, run := t.run, fault := t.fault,
                   v := t.v, pc := t.pc } ∧
      (t.inputs.keyAnswer = none → t.run = .waitKey x ∧ t.fault = s.fault ∧ t.v = s.v ∧ t.pc = s.pc) ∧
      (∀ k, t.inputs.keyAnswer = some k →
        (k.toNat ≤ 15 → PcTarget (s.pc.toNat + 2) →
          t.run = .running ∧ t.fault = s.fault ∧ (∀ r, getV t r = if r = x then k else getV s r) ∧
          t.pc.toNat = s.pc.toNat + 2) ∧
        (15 < k.toNat → t.run = .halted ∧
          t.fault = { kind := .invalidKeyIndex, opcode := encode (.ldVxK x), pc := s.pc } ∧ t.v = s.v ∧ t.pc = s.pc) ∧
        (k.toNat ≤ 15 → ¬ PcTarget (s.pc.toNat + 2) → t.run = .halted ∧
          t.fault = { kind := .pcOutOfRange, opcode := encode (.ldVxK x), pc := s.pc } ∧ t.v = s.v ∧ t.pc = s.pc))

/-! ### The invariant -/

/-- The invariant of Safety.lean holds after reset. -/
def Obligations.InvariantHoldsAtReset : Prop := Inv State.reset

/-- Every step from a state that meets the invariant leads to one that meets it, reachable or not: memory stays canonical,
PC stays even and in 0x200..0xFFE (decision D8), the entries in use stay return addresses, a fault is recorded exactly when the core is
HALTED, and a halted core stands at the word its record names. -/
def Obligations.InvariantKeptByEveryStep : Prop :=
  ∀ s t : State, Inv s → step s = .next t → Inv t

/-- A state that meets the invariant always has a next state: the model itself never stops, with a fault or a refusal. -/
def Obligations.InvariantStatesAlwaysStep : Prop :=
  ∀ s : State, Inv s → ∃ t, step s = .next t ∧ Inv t

/-! ### Control flow -/

/-- SYS nnn only advances PC; at a next PC out of range it faults. -/
def Obligations.SysOnlyAdvances : Prop :=
  ∀ (nnn : Addr) (s : State),
    (PcTarget (s.pc.toNat + 2) → ∃ t, exec (.sys nnn) s = .next t ∧ t.pc.toNat = s.pc.toNat + 2 ∧ t = { s with pc := t.pc }) ∧
    (¬ PcTarget (s.pc.toNat + 2) → exec (.sys nnn) s = .next (haltedWith .pcOutOfRange (encode (.sys nnn)) s))

/-- RET: PC becomes exactly the newest entry in use and SP drops by one, the entry kept; an entry that PC may not take
faults with SP unchanged (the fault is the spec's decision D8). An empty stack is in `StackFaultsPushAndPopNothing`. -/
def Obligations.RetPopsIntoPc : Prop :=
  ∀ (s : State) (k : Fin 16), s.sp.val = k.val + 1 →
    (PcTarget s.stack[k].toNat →
      ∃ t, exec .ret s = .next t ∧ t.pc = s.stack[k] ∧ t.sp.val = k.val ∧ t = { s with pc := t.pc, sp := t.sp }) ∧
    (¬ PcTarget s.stack[k].toNat → exec .ret s = .next (haltedWith .pcOutOfRange 0x00EE#16 s))

/-- JP nnn: PC becomes nnn and nothing else changes; an nnn that PC may not take faults (decision D8). -/
def Obligations.JpSetsPc : Prop :=
  ∀ (nnn : Addr) (s : State),
    (PcTarget nnn.toNat → ∃ t, exec (.jp nnn) s = .next t ∧ t.pc.toNat = nnn.toNat ∧ t = { s with pc := t.pc }) ∧
    (¬ PcTarget nnn.toNat → exec (.jp nnn) s = .next (haltedWith .pcOutOfRange (encode (.jp nnn)) s))

/-- CALL nnn with room on the stack: the next free entry takes PC + 2, unchecked (decision D32), SP grows by one, PC becomes
nnn; an nnn that PC may not take faults and nothing is pushed. A full stack is in `StackFaultsPushAndPopNothing`. -/
def Obligations.CallPushesAndJumps : Prop :=
  ∀ (nnn : Addr) (s : State) (k : Fin 16), s.sp.val = k.val →
    (PcTarget nnn.toNat →
      ∃ t, exec (.call nnn) s = .next t ∧ t.pc.toNat = nnn.toNat ∧ t.stack[k] = s.pc + 2#16 ∧
        (∀ j : Fin 16, j ≠ k → t.stack[j] = s.stack[j]) ∧ t.sp.val = k.val + 1 ∧
        t = { s with pc := t.pc, stack := t.stack, sp := t.sp }) ∧
    (¬ PcTarget nnn.toNat → exec (.call nnn) s = .next (haltedWith .pcOutOfRange (encode (.call nnn)) s))

/-- SE Vx, kk (pattern 3xkk): PC + 4 when V[x] = kk, PC + 2 when not, nothing else; a chosen value that PC may not take
faults. -/
def Obligations.SkipIfEqualImmediate : Prop :=
  ∀ (x : Nibble) (kk : Byte) (s : State) (target : Nat),
    decodeWord (wordXkk 0x3#4 x kk) = some (.seVxKk x kk) ∧
    (target = s.pc.toNat + (if (getV s x).toNat = kk.toNat then 4 else 2) →
      (PcTarget target → ∃ t, exec (.seVxKk x kk) s = .next t ∧ t.pc.toNat = target ∧ t = { s with pc := t.pc }) ∧
      (¬ PcTarget target → exec (.seVxKk x kk) s = .next (haltedWith .pcOutOfRange (encode (.seVxKk x kk)) s)))

/-- SNE Vx, kk: as SE with the opposite condition (the predicate is general knowledge G3 of 93_implementation_defined). -/
def Obligations.SkipIfNotEqualImmediate : Prop :=
  ∀ (x : Nibble) (kk : Byte) (s : State) (target : Nat),
    target = s.pc.toNat + (if (getV s x).toNat = kk.toNat then 2 else 4) →
      (PcTarget target → ∃ t, exec (.sneVxKk x kk) s = .next t ∧ t.pc.toNat = target ∧ t = { s with pc := t.pc }) ∧
      (¬ PcTarget target → exec (.sneVxKk x kk) s = .next (haltedWith .pcOutOfRange (encode (.sneVxKk x kk)) s))

/-- SE Vx, Vy and SNE Vx, Vy: one skips when the registers are equal, the other when they are not (predicates G4, G5). -/
def Obligations.SkipsOnTwoRegisters : Prop :=
  ∀ (x y : Nibble) (s : State) (target : Nat),
    (target = s.pc.toNat + (if (getV s x).toNat = (getV s y).toNat then 4 else 2) →
      (PcTarget target → ∃ t, exec (.seVxVy x y) s = .next t ∧ t.pc.toNat = target ∧ t = { s with pc := t.pc }) ∧
      (¬ PcTarget target → exec (.seVxVy x y) s = .next (haltedWith .pcOutOfRange (encode (.seVxVy x y)) s))) ∧
    (target = s.pc.toNat + (if (getV s x).toNat = (getV s y).toNat then 2 else 4) →
      (PcTarget target → ∃ t, exec (.sneVxVy x y) s = .next t ∧ t.pc.toNat = target ∧ t = { s with pc := t.pc }) ∧
      (¬ PcTarget target → exec (.sneVxVy x y) s = .next (haltedWith .pcOutOfRange (encode (.sneVxVy x y)) s)))

/-- JP V0, nnn: PC becomes the unreduced sum nnn + V[0]; a sum that PC may not take faults (G6, decisions D8 and D18). -/
def Obligations.JpV0AddsV0 : Prop :=
  ∀ (nnn : Addr) (s : State),
    (PcTarget (nnn.toNat + (getV s 0#4).toNat) →
      ∃ t, exec (.jpV0Nnn nnn) s = .next t ∧ t.pc.toNat = nnn.toNat + (getV s 0#4).toNat ∧ t = { s with pc := t.pc }) ∧
    (¬ PcTarget (nnn.toNat + (getV s 0#4).toNat) →
      exec (.jpV0Nnn nnn) s = .next (haltedWith .pcOutOfRange (encode (.jpV0Nnn nnn)) s))

/-! ### Register load, arithmetic, logic, shift, random -/

/-- LD Vx, kk (pattern 6xkk): V[x] = kk, PC + 2, nothing else; PcOutOfRange at the end of memory. -/
def Obligations.LoadImmediate : Prop :=
  ∀ (x : Nibble) (kk : Byte) (s : State),
    decodeWord (wordXkk 0x6#4 x kk) = some (.ldVxKk x kk) ∧
    (PcTarget (s.pc.toNat + 2) →
      ∃ t, exec (.ldVxKk x kk) s = .next t ∧ (∀ r, getV t r = if r = x then kk else getV s r) ∧
        t.pc.toNat = s.pc.toNat + 2 ∧ t = { s with v := t.v, pc := t.pc }) ∧
    (¬ PcTarget (s.pc.toNat + 2) → exec (.ldVxKk x kk) s = .next (haltedWith .pcOutOfRange (encode (.ldVxKk x kk)) s))

/-- ADD Vx, kk (modulo 256, no flag) and LD Vx, Vy: only V[x] and PC change (meanings G7 and G8). -/
def Obligations.AddImmediateAndCopy : Prop :=
  ∀ (x y : Nibble) (kk : Byte) (s : State),
    (PcTarget (s.pc.toNat + 2) →
      (∃ t, exec (.addVxKk x kk) s = .next t ∧ (getV t x).toNat = ((getV s x).toNat + kk.toNat) % 256 ∧
        (∀ r, r ≠ x → getV t r = getV s r) ∧ t.pc.toNat = s.pc.toNat + 2 ∧ t = { s with v := t.v, pc := t.pc }) ∧
      (∃ t, exec (.ldVxVy x y) s = .next t ∧ (∀ r, getV t r = if r = x then getV s y else getV s r) ∧
        t.pc.toNat = s.pc.toNat + 2 ∧ t = { s with v := t.v, pc := t.pc })) ∧
    (¬ PcTarget (s.pc.toNat + 2) →
      exec (.addVxKk x kk) s = .next (haltedWith .pcOutOfRange (encode (.addVxKk x kk)) s) ∧
      exec (.ldVxVy x y) s = .next (haltedWith .pcOutOfRange (encode (.ldVxVy x y)) s))

/-- OR, AND, XOR Vx, Vy (patterns 8xy1, 8xy2, 8xy3): bitwise into V[x], no flag side effect, PC + 2, nothing else;
PcOutOfRange at the end of memory. -/
def Obligations.BitwiseOperations : Prop :=
  ∀ (x y : Nibble) (s : State),
    (decodeWord (wordXyn 0x8#4 x y 0x1#4) = some (.orVxVy x y) ∧ decodeWord (wordXyn 0x8#4 x y 0x2#4) = some (.andVxVy x y) ∧
      decodeWord (wordXyn 0x8#4 x y 0x3#4) = some (.xorVxVy x y)) ∧
    (PcTarget (s.pc.toNat + 2) →
      (∃ t, exec (.orVxVy x y) s = .next t ∧
        (∀ b, b < 8 → (getV t x).getLsbD b = ((getV s x).getLsbD b || (getV s y).getLsbD b)) ∧
        (∀ r, r ≠ x → getV t r = getV s r) ∧ t.pc.toNat = s.pc.toNat + 2 ∧ t = { s with v := t.v, pc := t.pc }) ∧
      (∃ t, exec (.andVxVy x y) s = .next t ∧
        (∀ b, b < 8 → (getV t x).getLsbD b = ((getV s x).getLsbD b && (getV s y).getLsbD b)) ∧
        (∀ r, r ≠ x → getV t r = getV s r) ∧ t.pc.toNat = s.pc.toNat + 2 ∧ t = { s with v := t.v, pc := t.pc }) ∧
      (∃ t, exec (.xorVxVy x y) s = .next t ∧
        (∀ b, b < 8 → (getV t x).getLsbD b = Bool.xor ((getV s x).getLsbD b) ((getV s y).getLsbD b)) ∧
        (∀ r, r ≠ x → getV t r = getV s r) ∧ t.pc.toNat = s.pc.toNat + 2 ∧ t = { s with v := t.v, pc := t.pc })) ∧
    (¬ PcTarget (s.pc.toNat + 2) →
      exec (.orVxVy x y) s = .next (haltedWith .pcOutOfRange (encode (.orVxVy x y)) s) ∧
      exec (.andVxVy x y) s = .next (haltedWith .pcOutOfRange (encode (.andVxVy x y)) s) ∧
      exec (.xorVxVy x y) s = .next (haltedWith .pcOutOfRange (encode (.xorVxVy x y)) s))

/-- ADD Vx, Vy (pattern 8xy4), operands the old values: V[x] = sum mod 256; VF = 1 exactly when the raw sum exceeds 255
unless x = 15, where the result remains (the document's own order, flag then result); PC + 2, nothing else; PcOutOfRange at
the end of memory. -/
def Obligations.AddSetsCarry : Prop :=
  ∀ (x y : Nibble) (s : State),
    decodeWord (wordXyn 0x8#4 x y 0x4#4) = some (.addVxVy x y) ∧
    (PcTarget (s.pc.toNat + 2) →
      ∃ t, exec (.addVxVy x y) s = .next t ∧
        (getV t x).toNat = ((getV s x).toNat + (getV s y).toNat) % 256 ∧
        (x ≠ 15#4 → (getV t 15#4).toNat = if 255 < (getV s x).toNat + (getV s y).toNat then 1 else 0) ∧
        (∀ r, r ≠ x → r ≠ 15#4 → getV t r = getV s r) ∧
        t.pc.toNat = s.pc.toNat + 2 ∧ t = { s with v := t.v, pc := t.pc }) ∧
    (¬ PcTarget (s.pc.toNat + 2) → exec (.addVxVy x y) s = .next (haltedWith .pcOutOfRange (encode (.addVxVy x y)) s))

/-- SUB Vx, Vy (pattern 8xy5), operands the old values: V[x] = (V[x] - V[y]) mod 256; VF = 1 exactly when V[x] ≥ V[y]
unless x = 15, where the difference remains (decision D12); PC + 2, nothing else; PcOutOfRange at the end of memory. -/
def Obligations.SubSetsNoBorrow : Prop :=
  ∀ (x y : Nibble) (s : State),
    decodeWord (wordXyn 0x8#4 x y 0x5#4) = some (.subVxVy x y) ∧
    (PcTarget (s.pc.toNat + 2) →
      ∃ t, exec (.subVxVy x y) s = .next t ∧
        (getV t x).toNat = ((getV s x).toNat + 256 - (getV s y).toNat) % 256 ∧
        (x ≠ 15#4 → (getV t 15#4).toNat = if (getV s x).toNat ≥ (getV s y).toNat then 1 else 0) ∧
        (∀ r, r ≠ x → r ≠ 15#4 → getV t r = getV s r) ∧
        t.pc.toNat = s.pc.toNat + 2 ∧ t = { s with v := t.v, pc := t.pc }) ∧
    (¬ PcTarget (s.pc.toNat + 2) → exec (.subVxVy x y) s = .next (haltedWith .pcOutOfRange (encode (.subVxVy x y)) s))

/-- SUBN Vx, Vy: V[x] = (V[y] - V[x]) mod 256, VF = no borrow unless x = 15 (direction G9, write order decision D12). -/
def Obligations.SubnSetsNoBorrow : Prop :=
  ∀ (x y : Nibble) (s : State),
    (PcTarget (s.pc.toNat + 2) →
      ∃ t, exec (.subnVxVy x y) s = .next t ∧
        (getV t x).toNat = ((getV s y).toNat + 256 - (getV s x).toNat) % 256 ∧
        (x ≠ 15#4 → (getV t 15#4).toNat = if (getV s y).toNat ≥ (getV s x).toNat then 1 else 0) ∧
        (∀ r, r ≠ x → r ≠ 15#4 → getV t r = getV s r) ∧
        t.pc.toNat = s.pc.toNat + 2 ∧ t = { s with v := t.v, pc := t.pc }) ∧
    (¬ PcTarget (s.pc.toNat + 2) → exec (.subnVxVy x y) s = .next (haltedWith .pcOutOfRange (encode (.subnVxVy x y)) s))

/-- SHR Vx and SHL Vx: V[x] shifted in place by one, whatever y (decision D13); VF the bit shifted out unless x = 15
(decision D12). -/
def Obligations.ShiftsMoveOneBitIntoVf : Prop :=
  ∀ (x y : Nibble) (s : State),
    (PcTarget (s.pc.toNat + 2) →
      (∃ t, exec (.shrVx x y) s = .next t ∧ (getV t x).toNat = (getV s x).toNat / 2 ∧
        (x ≠ 15#4 → (getV t 15#4).toNat = (getV s x).toNat % 2) ∧
        (∀ r, r ≠ x → r ≠ 15#4 → getV t r = getV s r) ∧
        t.pc.toNat = s.pc.toNat + 2 ∧ t = { s with v := t.v, pc := t.pc }) ∧
      (∃ t, exec (.shlVx x y) s = .next t ∧ (getV t x).toNat = (getV s x).toNat * 2 % 256 ∧
        (x ≠ 15#4 → (getV t 15#4).toNat = (getV s x).toNat / 128) ∧
        (∀ r, r ≠ x → r ≠ 15#4 → getV t r = getV s r) ∧
        t.pc.toNat = s.pc.toNat + 2 ∧ t = { s with v := t.v, pc := t.pc })) ∧
    (¬ PcTarget (s.pc.toNat + 2) →
      exec (.shrVx x y) s = .next (haltedWith .pcOutOfRange (encode (.shrVx x y)) s) ∧
      exec (.shlVx x y) s = .next (haltedWith .pcOutOfRange (encode (.shlVx x y)) s))

/-- RND Vx, kk: one byte is drawn and V[x] is that byte AND kk, for every value of the byte (a free value, entry 6; the
source is decision D21); when it faults no byte is drawn (decision D9). -/
def Obligations.RandomIsMaskedAndDrawnOnce : Prop :=
  ∀ (x : Nibble) (kk : Byte) (s : State),
    (PcTarget (s.pc.toNat + 2) →
      ∃ t, exec (.rndVxKk x kk) s = .next t ∧
        (∀ r, getV t r = if r = x then s.inputs.random &&& kk else getV s r) ∧ t.requests = .rngByte :: s.requests ∧
        t.pc.toNat = s.pc.toNat + 2 ∧ t = { s with v := t.v, pc := t.pc, requests := t.requests }) ∧
    (¬ PcTarget (s.pc.toNat + 2) → exec (.rndVxKk x kk) s = .next (haltedWith .pcOutOfRange (encode (.rndVxKk x kk)) s))

/-! ### Index register, loads and stores -/

/-- LD I, nnn: I = nnn, PC + 2, nothing else (meaning G10). -/
def Obligations.LoadIndex : Prop :=
  ∀ (nnn : Addr) (s : State),
    (PcTarget (s.pc.toNat + 2) →
      ∃ t, exec (.ldINnn nnn) s = .next t ∧ t.ireg = nnn ∧ t.pc.toNat = s.pc.toNat + 2 ∧
        t = { s with ireg := t.ireg, pc := t.pc }) ∧
    (¬ PcTarget (s.pc.toNat + 2) → exec (.ldINnn nnn) s = .next (haltedWith .pcOutOfRange (encode (.ldINnn nnn)) s))

/-- ADD I, Vx (pattern Fx1E), operands the old values: I = (I + V[x]) mod 0x1000 and VF = 1 exactly when the sum exceeds
0xFFF, written on every execution; PC + 2, nothing else; PcOutOfRange at the end of memory. -/
def Obligations.AddToIndexSetsOverflow : Prop :=
  ∀ (x : Nibble) (s : State),
    decodeWord (wordXkk 0xF#4 x 0x1E#8) = some (.addIVx x) ∧
    (PcTarget (s.pc.toNat + 2) →
      ∃ t, exec (.addIVx x) s = .next t ∧ t.ireg.toNat = (s.ireg.toNat + (getV s x).toNat) % 0x1000 ∧
        (getV t 15#4).toNat = (if 0xFFF < s.ireg.toNat + (getV s x).toNat then 1 else 0) ∧
        (∀ r, r ≠ 15#4 → getV t r = getV s r) ∧
        t.pc.toNat = s.pc.toNat + 2 ∧ t = { s with ireg := t.ireg, v := t.v, pc := t.pc }) ∧
    (¬ PcTarget (s.pc.toNat + 2) → exec (.addIVx x) s = .next (haltedWith .pcOutOfRange (encode (.addIVx x)) s))

/-- LD F, Vx with a digit up to 15: I = 5 * digit, which is where its glyph lies in the font (G11, decision D6). A value above
15 is in `KeyAndGlyphIndexFaults`. -/
def Obligations.LoadGlyphAddress : Prop :=
  ∀ (x : Nibble) (s : State), (getV s x).toNat ≤ 15 →
    (PcTarget (s.pc.toNat + 2) →
      ∃ t, exec (.ldFVx x) s = .next t ∧ t.ireg.toNat = 5 * (getV s x).toNat ∧ t.pc.toNat = s.pc.toNat + 2 ∧
        t = { s with ireg := t.ireg, pc := t.pc }) ∧
    (¬ PcTarget (s.pc.toNat + 2) → exec (.ldFVx x) s = .next (haltedWith .pcOutOfRange (encode (.ldFVx x)) s))

/-- LD B, Vx (pattern Fx33): the three decimal digits of V[x], hundreds first, at I, I + 1, I + 2, every other cell and all
else but PC unchanged; when I + 2 > 0xFFF AddressOutOfRange with nothing stored, else PcOutOfRange at the end of memory.
Reading back a store needs memory in its canonical form, which `InvariantKeptByEveryStep` keeps. -/
def Obligations.StoreDecimalDigits : Prop :=
  ∀ (x : Nibble) (s : State),
    decodeWord (wordXkk 0xF#4 x 0x33#8) = some (.ldBVx x) ∧
    (effAddr s 2 ≤ 0xFFF → PcTarget (s.pc.toNat + 2) → Memory.wf s.mem = true →
      ∃ t, exec (.ldBVx x) s = .next t ∧
        (memRead t.mem (effAddr s 0)).toNat = (getV s x).toNat / 100 ∧
        (memRead t.mem (effAddr s 1)).toNat = (getV s x).toNat / 10 % 10 ∧
        (memRead t.mem (effAddr s 2)).toNat = (getV s x).toNat % 10 ∧
        (∀ a, a < effAddr s 0 ∨ effAddr s 2 < a → memRead t.mem a = memRead s.mem a) ∧
        t.pc.toNat = s.pc.toNat + 2 ∧ t = { s with mem := t.mem, pc := t.pc }) ∧
    (0xFFF < effAddr s 2 → exec (.ldBVx x) s = .next (haltedWith .addressOutOfRange (encode (.ldBVx x)) s)) ∧
    (effAddr s 2 ≤ 0xFFF → ¬ PcTarget (s.pc.toNat + 2) →
      exec (.ldBVx x) s = .next (haltedWith .pcOutOfRange (encode (.ldBVx x)) s))

/-- LD [I], Vx (pattern Fx55; the direction is 90_conflicts C7): V[0]..V[x] at I..I + x, every other cell and all else but PC unchanged, I included; when
I + x > 0xFFF AddressOutOfRange with nothing stored, else PcOutOfRange at the end of memory. -/
def Obligations.StoreRegisterBlock : Prop :=
  ∀ (x : Nibble) (s : State),
    decodeWord (wordXkk 0xF#4 x 0x55#8) = some (.ldMemVx x) ∧
    (effAddr s x.toNat ≤ 0xFFF → PcTarget (s.pc.toNat + 2) → Memory.wf s.mem = true →
      ∃ t, exec (.ldMemVx x) s = .next t ∧
        (∀ r : Nibble, r.toNat ≤ x.toNat → memRead t.mem (effAddr s r.toNat) = getV s r) ∧
        (∀ a, a < effAddr s 0 ∨ effAddr s x.toNat < a → memRead t.mem a = memRead s.mem a) ∧
        t.pc.toNat = s.pc.toNat + 2 ∧ t = { s with mem := t.mem, pc := t.pc }) ∧
    (0xFFF < effAddr s x.toNat → exec (.ldMemVx x) s = .next (haltedWith .addressOutOfRange (encode (.ldMemVx x)) s)) ∧
    (effAddr s x.toNat ≤ 0xFFF → ¬ PcTarget (s.pc.toNat + 2) →
      exec (.ldMemVx x) s = .next (haltedWith .pcOutOfRange (encode (.ldMemVx x)) s))

/-- LD Vx, [I] (pattern Fx65; the direction is 90_conflicts C7): V[0]..V[x] from the cells at I..I + x, the registers above x, memory, I and all else but PC
unchanged; when I + x > 0xFFF AddressOutOfRange with no register written, else PcOutOfRange at the end of memory. -/
def Obligations.LoadRegisterBlock : Prop :=
  ∀ (x : Nibble) (s : State),
    decodeWord (wordXkk 0xF#4 x 0x65#8) = some (.ldVxMem x) ∧
    (effAddr s x.toNat ≤ 0xFFF → PcTarget (s.pc.toNat + 2) →
      ∃ t, exec (.ldVxMem x) s = .next t ∧
        (∀ r : Nibble, getV t r = if r.toNat ≤ x.toNat then memRead s.mem (effAddr s r.toNat) else getV s r) ∧
        t.pc.toNat = s.pc.toNat + 2 ∧ t = { s with v := t.v, pc := t.pc }) ∧
    (0xFFF < effAddr s x.toNat → exec (.ldVxMem x) s = .next (haltedWith .addressOutOfRange (encode (.ldVxMem x)) s)) ∧
    (effAddr s x.toNat ≤ 0xFFF → ¬ PcTarget (s.pc.toNat + 2) →
      exec (.ldVxMem x) s = .next (haltedWith .pcOutOfRange (encode (.ldVxMem x)) s))

/-! ### Display, keyboard and timers -/

/-- CLS: one clear request, after which no pixel of the reference display is set, and PC + 2; at the end of memory it faults
and no clear is sent (meaning G13; the display is entry 11). -/
def Obligations.ClearSendsOneRequest : Prop :=
  ∀ s : State,
    (PcTarget (s.pc.toNat + 2) →
      ∃ t, exec .cls s = .next t ∧ t.requests = .displayClear :: s.requests ∧ (∀ p, pixelSet t.display p = false) ∧
        t.pc.toNat = s.pc.toNat + 2 ∧ t = { s with pc := t.pc, requests := t.requests, display := t.display }) ∧
    (¬ PcTarget (s.pc.toNat + 2) → exec .cls s = .next (haltedWith .pcOutOfRange 0x00E0#16 s))

/-- DRW Vx, Vy, n with the sprite inside memory: one draw request with the n bytes from I on and the raw coordinates, the
reference display's bitmap after it (entry 11, decision D19), VF = its collision answer, PC + 2, nothing else. n = 0 passes
no byte (decision D20). Out of range it is in `AddressFaultsTouchNothing`. -/
def Obligations.DrawPassesSpriteAndSetsCollision : Prop :=
  ∀ (x y n : Nibble) (s : State), (0 < n.toNat → effAddr s (n.toNat - 1) ≤ 0xFFF) →
    (PcTarget (s.pc.toNat + 2) →
      ∃ t bytes, exec (.drwVxVyN x y n) s = .next t ∧
        bytes.length = n.toNat ∧ (∀ r, r < n.toNat → bytes.getD r 0#8 = memRead s.mem (effAddr s r)) ∧
        t.requests = .displayDraw bytes (getV s x) (getV s y) :: s.requests ∧
        t.display = (drawSprite s.display bytes (getV s x) (getV s y)).2 ∧
        (getV t 15#4).toNat = (if (drawSprite s.display bytes (getV s x) (getV s y)).1 then 1 else 0) ∧
        (∀ r, r ≠ 15#4 → getV t r = getV s r) ∧ t.pc.toNat = s.pc.toNat + 2 ∧
        t = { s with v := t.v, pc := t.pc, requests := t.requests, display := t.display }) ∧
    (¬ PcTarget (s.pc.toNat + 2) →
      exec (.drwVxVyN x y n) s = .next (haltedWith .pcOutOfRange (encode (.drwVxVyN x y n)) s))

/-- SKP Vx and SKNP Vx with a key index up to 15: the key V[x] is queried once and PC + 4 or PC + 2 follows the answer, for
every value of the answer (a free value, entry 6; skip sense G14). A next PC out of range faults, the query having been
made (entry 13). An index above 15 is in `KeyAndGlyphIndexFaults`. -/
def Obligations.KeySkipsFollowTheAnswer : Prop :=
  ∀ (x key : Nibble) (s : State) (target : Nat), (getV s x).toNat = key.toNat →
    (target = s.pc.toNat + (if s.inputs.keys.getLsbD key.toNat then 4 else 2) →
      (PcTarget target → ∃ t, exec (.skpVx x) s = .next t ∧ t.pc.toNat = target ∧
        t.requests = .isPressed key :: s.requests ∧ t = { s with pc := t.pc, requests := t.requests }) ∧
      (¬ PcTarget target → exec (.skpVx x) s =
        .next (haltedWith .pcOutOfRange (encode (.skpVx x)) { s with requests := .isPressed key :: s.requests }))) ∧
    (target = s.pc.toNat + (if s.inputs.keys.getLsbD key.toNat then 2 else 4) →
      (PcTarget target → ∃ t, exec (.sknpVx x) s = .next t ∧ t.pc.toNat = target ∧
        t.requests = .isPressed key :: s.requests ∧ t = { s with pc := t.pc, requests := t.requests }) ∧
      (¬ PcTarget target → exec (.sknpVx x) s =
        .next (haltedWith .pcOutOfRange (encode (.sknpVx x)) { s with requests := .isPressed key :: s.requests })))

/-- LD Vx, DT (pattern Fx07): V[x] = DT.count, with no side effect on the timer, PC + 2, nothing else; PcOutOfRange at the
end of memory. In a cycle the value is the count AFTER the cycle's timer check, which is made at max(cycle_deadline, now):
one clock sample per cycle is decision D2, its time decision D23 (entry 8). -/
def Obligations.ReadDelayTimer : Prop :=
  (∀ (x : Nibble) (s : State),
    decodeWord (wordXkk 0xF#4 x 0x07#8) = some (.ldVxDt x) ∧
    (PcTarget (s.pc.toNat + 2) →
      ∃ t, exec (.ldVxDt x) s = .next t ∧ (∀ r, getV t r = if r = x then s.dt.count else getV s r) ∧
        t.pc.toNat = s.pc.toNat + 2 ∧ t = { s with v := t.v, pc := t.pc }) ∧
    (¬ PcTarget (s.pc.toNat + 2) → exec (.ldVxDt x) s = .next (haltedWith .pcOutOfRange (encode (.ldVxDt x)) s))) ∧
  (∀ (x : Nibble) (s : State), s.run = .running → s.pc.toNat + 1 ≤ 0xFFF → PcTarget (s.pc.toNat + 2) →
    wordOfBytes (memRead s.mem s.pc.toNat) (memRead s.mem (s.pc.toNat + 1)) = wordXkk 0xF#4 x 0x07#8 →
    ∃ t, step s = .next t ∧ getV t x = (timerCheck s.timeBase (max s.cycleDeadline s.now) s.dt).count)

/-- LD Vx, K: the keyboard is asked once. With no answer yet the core waits with nothing else changed; an answer up to 15
lands in V[x] and the core runs on at PC + 2; an answer above 15 faults, and so does a next PC out of range, which is
reported after the wait. For every value of the answer (a free value, entry 6; decision D22). -/
def Obligations.KeyWaitStoresTheAnswer : Prop :=
  ∀ (x : Nibble) (s : State),
    (∀ k, s.inputs.keyAnswer = some k → k.toNat ≤ 15 → PcTarget (s.pc.toNat + 2) →
      ∃ t, exec (.ldVxK x) s = .next t ∧ (∀ r, getV t r = if r = x then k else getV s r) ∧ t.run = .running ∧
        t.requests = .waitForAnyKey :: s.requests ∧ t.pc.toNat = s.pc.toNat + 2 ∧
        t = { s with v := t.v, pc := t.pc, run := t.run, requests := t.requests }) ∧
    (s.inputs.keyAnswer = none →
      exec (.ldVxK x) s = .next { s with run := .waitKey x, requests := .waitForAnyKey :: s.requests }) ∧
    (∀ k, s.inputs.keyAnswer = some k → 15 < k.toNat →
      exec (.ldVxK x) s = .next (haltedWith .invalidKeyIndex (encode (.ldVxK x))
        { s with requests := .waitForAnyKey :: s.requests })) ∧
    (∀ k, s.inputs.keyAnswer = some k → k.toNat ≤ 15 → ¬ PcTarget (s.pc.toNat + 2) →
      exec (.ldVxK x) s = .next (haltedWith .pcOutOfRange (encode (.ldVxK x))
        { s with requests := .waitForAnyKey :: s.requests }))

/-- LD DT, Vx (pattern Fx15): DT.count = V[x], DT.set_time = now, DT.deadline = now + P_TICK, no request, PC + 2, nothing
else; PcOutOfRange at the end of memory with the timer unchanged. -/
def Obligations.SetDelayTimerFromVx : Prop :=
  ∀ (x : Nibble) (s : State),
    decodeWord (wordXkk 0xF#4 x 0x15#8) = some (.ldDtVx x) ∧
    (PcTarget (s.pc.toNat + 2) →
      ∃ t, exec (.ldDtVx x) s = .next t ∧ t.dt.count = getV s x ∧ t.dt.setTime = s.now ∧
        t.dt.deadline = s.now + s.timeBase.pTick ∧ t.pc.toNat = s.pc.toNat + 2 ∧ t = { s with dt := t.dt, pc := t.pc }) ∧
    (¬ PcTarget (s.pc.toNat + 2) → exec (.ldDtVx x) s = .next (haltedWith .pcOutOfRange (encode (.ldDtVx x)) s))

/-- LD ST, Vx: the sound timer is set likewise and one tone(V[x]) is sent, also for V[x] = 0 (decision D25); at the end of
memory it faults and no tone is sent. -/
def Obligations.SetSoundTimerSendsOneTone : Prop :=
  ∀ (x : Nibble) (s : State),
    (PcTarget (s.pc.toNat + 2) →
      ∃ t, exec (.ldStVx x) s = .next t ∧ t.st.count = getV s x ∧ t.st.setTime = s.now ∧
        t.st.deadline = s.now + s.timeBase.pTick ∧ t.requests = .tone (getV s x) :: s.requests ∧
        t.pc.toNat = s.pc.toNat + 2 ∧ t = { s with st := t.st, pc := t.pc, requests := t.requests }) ∧
    (¬ PcTarget (s.pc.toNat + 2) → exec (.ldStVx x) s = .next (haltedWith .pcOutOfRange (encode (.ldStVx x)) s))

/-! ### Faults -/

/-- CALL with all sixteen entries in use faults with StackOverflow, at any PC and for any nnn, and RET with none faults with
StackUnderflow: the record is written, the core halts, nothing is pushed or popped and PC does not move. -/
def Obligations.StackFaultsPushAndPopNothing : Prop :=
  (∀ (nnn : Addr) (s : State), s.sp.val = 16 →
    exec (.call nnn) s = .next (haltedWith .stackOverflow (encode (.call nnn)) s)) ∧
  (∀ s : State, s.sp.val = 0 → exec .ret s = .next (haltedWith .stackUnderflow 0x00EE#16 s))

/-- AddressOutOfRange, at any PC: Dxyn when n > 0 and I + n - 1 > 0xFFF, Fx33 when I + 2 > 0xFFF, Fx55 and Fx65 when
I + x > 0xFFF. The record holds the word and its PC, no access is made and no request is sent. -/
def Obligations.AddressFaultsTouchNothing : Prop :=
  ∀ (x y n : Nibble) (s : State),
    (0 < n.toNat → 0xFFF < effAddr s (n.toNat - 1) →
      exec (.drwVxVyN x y n) s = .next (haltedWith .addressOutOfRange (encode (.drwVxVyN x y n)) s)) ∧
    (0xFFF < effAddr s 2 → exec (.ldBVx x) s = .next (haltedWith .addressOutOfRange (encode (.ldBVx x)) s)) ∧
    (0xFFF < effAddr s x.toNat →
      exec (.ldMemVx x) s = .next (haltedWith .addressOutOfRange (encode (.ldMemVx x)) s) ∧
      exec (.ldVxMem x) s = .next (haltedWith .addressOutOfRange (encode (.ldVxMem x)) s))

/-- With V[x] above 15, at any PC: SKP and SKNP fault with InvalidKeyIndex before any query (decision D15), LD F, Vx faults
with InvalidGlyphIndex (decision D16). -/
def Obligations.KeyAndGlyphIndexFaults : Prop :=
  ∀ (x : Nibble) (s : State), 15 < (getV s x).toNat →
    exec (.skpVx x) s = .next (haltedWith .invalidKeyIndex (encode (.skpVx x)) s) ∧
    exec (.sknpVx x) s = .next (haltedWith .invalidKeyIndex (encode (.sknpVx x)) s) ∧
    exec (.ldFVx x) s = .next (haltedWith .invalidGlyphIndex (encode (.ldFVx x)) s)

/-- Faults are precise (decisions D9 and D11): whenever any instruction halts a running core, the record names its word and
PC and everything but run, the record and the request log is as before; the log has at most the keyboard read of
Ex9E, ExA1 or Fx0A added. -/
def Obligations.FaultsArePrecise : Prop :=
  ∀ (ins : Instr) (s t : State), s.run = .running → exec ins s = .next t → t.run = .halted →
    t = { s with run := .halted, fault := t.fault, requests := t.requests } ∧
    t.fault.kind ≠ .none ∧ t.fault.opcode = encode ins ∧ t.fault.pc = s.pc ∧
    (t.requests = s.requests ∨
      (∃ x k, (ins = .skpVx x ∨ ins = .sknpVx x) ∧ t.requests = .isPressed k :: s.requests) ∨
      (∃ x, ins = .ldVxK x ∧ t.requests = .waitForAnyKey :: s.requests))

/-! ### What no instruction outside a list changes -/

/-- Over all instructions: a general register, VF among them, changes only where the instruction names it as destination,
loads it in a block, or sets it as its flag. -/
def Obligations.OnlyDestinationRegistersChange : Prop :=
  ∀ (ins : Instr) (s t : State) (r : Nibble), exec ins s = .next t → ¬ mayWriteV ins r → getV t r = getV s r

/-- Over all instructions: I is written only by Annn, Fx1E and Fx29. -/
def Obligations.OnlyIndexInstructionsChangeI : Prop :=
  ∀ (ins : Instr) (s t : State), exec ins s = .next t →
    (∀ nnn, ins ≠ .ldINnn nnn) → (∀ x, ins ≠ .addIVx x) → (∀ x, ins ≠ .ldFVx x) → t.ireg = s.ireg

/-- Over all instructions: memory is written only by Fx33 and Fx55. -/
def Obligations.OnlyStoresChangeMemory : Prop :=
  ∀ (ins : Instr) (s t : State), exec ins s = .next t →
    (∀ x, ins ≠ .ldBVx x) → (∀ x, ins ≠ .ldMemVx x) → t.mem = s.mem

/-- Over all instructions: the stack pointer changes only by 2nnn and 00EE, and the entries only by 2nnn. -/
def Obligations.OnlyCallAndRetChangeTheStack : Prop :=
  ∀ (ins : Instr) (s t : State), exec ins s = .next t → (∀ nnn, ins ≠ .call nnn) →
    t.stack = s.stack ∧ (ins ≠ .ret → t.sp = s.sp)

/-- Over all instructions: DT is set only by Fx15, ST only by Fx18, and only Fx18 sends a tone. No instruction moves the clock
or the scheduler's deadline: one clock sample per cycle and no time for executing are decisions D2 and D23 (entry 8), and
that Fx0A, too, leaves the clock to the later looks of its wait is the model's choice (entry 7). No instruction changes the
rate (decision D28). -/
def Obligations.OnlyTimerInstructionsSetTimers : Prop :=
  ∀ (ins : Instr) (s t : State), exec ins s = .next t →
    ((∀ x, ins ≠ .ldDtVx x) → t.dt = s.dt) ∧
    ((∀ x, ins ≠ .ldStVx x) → t.st = s.st ∧
      (t.requests = s.requests ∨ ∃ q, t.requests = q :: s.requests ∧ ∀ b, q ≠ .tone b)) ∧
    t.now = s.now ∧ t.cycleDeadline = s.cycleDeadline ∧ t.timeBase = s.timeBase

/-- The free values held in the field `inputs` (key states, key answer, random byte, length of a wait) reach the state only
through Cxkk, Ex9E, ExA1 and Fx0A: for every other instruction two runs that differ only in `inputs` end alike but for those
inputs. Dxyn is not among the four because its collision answer is the reference display's and no free value (entry 11, a
DESIGN CHOICE); that answer and the time of the cycle are held in the fields `display` and `now`, of which nothing is said
here. -/
def Obligations.InputsReachOnlyFourInstructions : Prop :=
  ∀ (ins : Instr) (s t : State) (other : Inputs), ¬ readsInputs ins → exec ins s = .next t →
    exec ins { s with inputs := other } = .next { t with inputs := other }

/-! ### Timers and time -/

/-- check(): with count > 0 and now ≥ deadline exactly one decrement and the deadline one tick on; otherwise nothing. -/
def Obligations.TimerCheckDropsAtMostOne : Prop :=
  ∀ (tb : TimeBase) (now : Nat) (t : Timer),
    (0 < t.count.toNat → t.deadline ≤ now →
      (timerCheck tb now t).count.toNat + 1 = t.count.toNat ∧ (timerCheck tb now t).deadline = t.deadline + tb.pTick ∧
      (timerCheck tb now t).setTime = t.setTime) ∧
    (t.count.toNat = 0 ∨ now < t.deadline → timerCheck tb now t = t)

/-- The timer law: setTimer(n) at time `start`, then checks at times spaced no wider than a tick, leave n less the number
of whole ticks that have passed, and never less than 0. -/
def Obligations.TimerDropsOncePerTick : Prop :=
  ∀ (tb : TimeBase) (n : Byte) (start : Nat) (times : List Nat), 0 < tb.pTick → SpacedBy tb.pTick start times →
    (checksAt tb times (timerSet tb n start)).count.toNat = n.toNat - (lastTime start times - start) / tb.pTick

/-- No step changes the rate F_CPU (decision D28), and no step moves the clock back (decisions D2 and D23, entries 7 and 8). -/
def Obligations.RateIsFixedAndTimeNeverGoesBack : Prop :=
  ∀ s t : State, step s = .next t → t.timeBase = s.timeBase ∧ s.now ≤ t.now

/-! ### Instructions together -/

/-- A CALL and then the RET at its target come back to the word after the CALL with the stack pointer as it was. -/
def Obligations.CallThenReturnComesBack : Prop :=
  ∀ (nnn : Addr) (s : State), s.sp.val < 16 → PcTarget nnn.toNat → PcTarget (s.pc.toNat + 2) →
    ∃ t u, exec (.call nnn) s = .next t ∧ t.pc.toNat = nnn.toNat ∧ exec .ret t = .next u ∧
      u.pc.toNat = s.pc.toNat + 2 ∧ u = { s with pc := u.pc, stack := u.stack }

/-- A register block stored by Fx55 is loaded back by Fx65 with the same x and I, whatever the registers held in between. -/
def Obligations.StoreThenLoadRestoresRegisters : Prop :=
  ∀ (x : Nibble) (s : State) (between : Vector Byte 16), effAddr s x.toNat ≤ 0xFFF → PcTarget (s.pc.toNat + 2) →
    PcTarget (s.pc.toNat + 4) → Memory.wf s.mem = true →
    ∃ t u, exec (.ldMemVx x) s = .next t ∧ exec (.ldVxMem x) { t with v := between } = .next u ∧
      ∀ r : Nibble, getV u r = if r.toNat ≤ x.toNat then getV s r else getV { t with v := between } r

/-- A store is seen by the very next fetch: when Fx55 stores at the word that follows it, that word is then fetched from
V[0] and V[1]. -/
def Obligations.StoreIsSeenByTheNextFetch : Prop :=
  ∀ (x : Nibble) (s : State), 1 ≤ x.toNat → effAddr s 0 = s.pc.toNat + 2 → effAddr s x.toNat ≤ 0xFFF →
    PcTarget (s.pc.toNat + 2) → Memory.wf s.mem = true →
    ∃ t, exec (.ldMemVx x) s = .next t ∧ fetchWord t = wordOfBytes (getV s 0#4) (getV s 1#4)

/-- Drawing the same sprite twice at the same place restores the bitmap, for any bytes and coordinates (reference display,
entry 11). -/
def Obligations.DrawTwiceRestoresTheBitmap : Prop :=
  ∀ (d : Bitmap) (bytes : List Byte) (x y : Byte), (drawSprite (drawSprite d bytes x y).2 bytes x y).2 = d

/-- The collision law, for the up to 15 rows that Dxyn can pass: the answer is true exactly when some targeted pixel was set,
and after the draw exactly the targeted pixels have flipped (reference display, entry 11; decision D19). -/
def Obligations.DrawCollidesExactlyOnSetPixels : Prop :=
  ∀ (d : Bitmap) (bytes : List Byte) (x y : Byte), bytes.length ≤ 15 →
    ((drawSprite d bytes x y).1 = true ↔ ∃ p, Targets bytes x y p ∧ pixelSet d p = true) ∧
    (∀ p, pixelSet (drawSprite d bytes x y).2 p = true ↔
      (pixelSet d p = true ∧ ¬ Targets bytes x y p) ∨ (pixelSet d p = false ∧ Targets bytes x y p))

/-! ### Reset -/

/-- The whole state after reset with the default font, the empty ROM, the default rate and T0 = 0. The registers, the stack,
the timers, the scheduler, the run state and the fault record are the values the spec decides (D3, D4, D5, D11); memory is
the glyph table (D6, G12) and 0x00 in every other cell (D7); no request has been sent (D3) and no pixel of the reference
display is set (entry 11). The arguments of this reset are the model's choice (entries 5 and 9). -/
def Obligations.ResetValues : Prop :=
  boot defaultFont [] Config.defaultTimeBase 0 = some State.reset ∧
  (∀ r, getV State.reset r = 0x00#8) ∧ State.reset.ireg = 0x000#12 ∧ State.reset.pc = 0x0200#16 ∧ State.reset.sp.val = 0 ∧
  (∀ k : Fin 16, State.reset.stack[k] = 0x0000#16) ∧
  State.reset.dt = { count := 0x00#8, setTime := State.reset.now, deadline := State.reset.now + State.reset.timeBase.pTick } ∧
  State.reset.st = { count := 0x00#8, setTime := State.reset.now, deadline := State.reset.now + State.reset.timeBase.pTick } ∧
  State.reset.cycleDeadline = State.reset.now ∧ State.reset.run = .running ∧
  State.reset.fault = { kind := .none, opcode := 0x0000#16, pc := 0x0000#16 } ∧ State.reset.requests = [] ∧
  (∀ p, pixelSet State.reset.display p = false) ∧
  memReadBytes State.reset.mem 0x000 5 = [0xF0, 0x90, 0x90, 0x90, 0xF0] ∧
  memReadBytes State.reset.mem 0x005 5 = [0x20, 0x60, 0x20, 0x20, 0x70] ∧
  memReadBytes State.reset.mem 0x00A 5 = [0xF0, 0x10, 0xF0, 0x80, 0xF0] ∧
  memReadBytes State.reset.mem 0x00F 5 = [0xF0, 0x10, 0xF0, 0x10, 0xF0] ∧
  memReadBytes State.reset.mem 0x014 5 = [0x90, 0x90, 0xF0, 0x10, 0x10] ∧
  memReadBytes State.reset.mem 0x019 5 = [0xF0, 0x80, 0xF0, 0x10, 0xF0] ∧
  memReadBytes State.reset.mem 0x01E 5 = [0xF0, 0x80, 0xF0, 0x90, 0xF0] ∧
  memReadBytes State.reset.mem 0x023 5 = [0xF0, 0x10, 0x20, 0x40, 0x40] ∧
  memReadBytes State.reset.mem 0x028 5 = [0xF0, 0x90, 0xF0, 0x90, 0xF0] ∧
  memReadBytes State.reset.mem 0x02D 5 = [0xF0, 0x90, 0xF0, 0x10, 0xF0] ∧
  memReadBytes State.reset.mem 0x032 5 = [0xF0, 0x90, 0xF0, 0x90, 0x90] ∧
  memReadBytes State.reset.mem 0x037 5 = [0xE0, 0x90, 0xE0, 0x90, 0xE0] ∧
  memReadBytes State.reset.mem 0x03C 5 = [0xF0, 0x80, 0x80, 0x80, 0xF0] ∧
  memReadBytes State.reset.mem 0x041 5 = [0xE0, 0x90, 0x90, 0x90, 0xE0] ∧
  memReadBytes State.reset.mem 0x046 5 = [0xF0, 0x80, 0xF0, 0x80, 0xF0] ∧
  memReadBytes State.reset.mem 0x04B 5 = [0xF0, 0x80, 0xF0, 0x80, 0x80] ∧
  (∀ a, 0x050 ≤ a → a ≤ 0xFFF → memRead State.reset.mem a = 0x00#8)

/-- Reset with any font table, ROM, T0 and rate given as a pair of whole periods (the model's choice, entry 9; other rates have
no such pair): accepted exactly when the ROM has at most 3584 bytes (decision D30) and both periods are positive (any
positive rate is accepted, decision D28; that a pair with a period of 0, which is no rate, is refused is entry 9). Then font
byte i is in cell i (placement: decision D6), ROM byte i in cell 0x200 + i, and 0x00 in every other cell (decision D7); the
timers and the scheduler start at T0, and every other field is that of `State.reset`, whose values are in `ResetValues`
(decisions D3, D4, D5). A booted core meets the invariant. -/
def Obligations.BootLoadsTheRomOrRefuses : Prop :=
  ∀ (font : FontTable) (rom : List Byte) (tb : TimeBase) (t0 : Nat),
    ((boot font rom tb t0).isSome = true ↔ rom.length ≤ 3584 ∧ 0 < tb.pCycle ∧ 0 < tb.pTick) ∧
    (∀ s, boot font rom tb t0 = some s →
      (∀ k : Fin 80, memRead s.mem k.val = font[k]) ∧
      (∀ k, k < rom.length → memRead s.mem (0x200 + k) = rom.getD k 0#8) ∧
      (∀ a, 0x050 ≤ a → a < 0x200 ∨ 0x200 + rom.length ≤ a → a ≤ 0xFFF → memRead s.mem a = 0x00#8) ∧
      s = { State.reset with
        mem := s.mem
        dt := { count := 0x00#8, setTime := t0, deadline := t0 + tb.pTick }
        st := { count := 0x00#8, setTime := t0, deadline := t0 + tb.pTick }
        cycleDeadline := t0
        timeBase := tb
        now := t0 } ∧
      Inv s)
end

