-- ==== Sys2Proof/Laws/Memory.lean ====
section
/-!
SUPPORT. The laws of memory: a read after a write to the same cell gives the value written, a write leaves every other
cell alone, and every memory operation keeps the canonical form.
-/

namespace Sys2Proof.Machine

theorem memRead_memWrite_same (m : Memory) (a : Nat) (b : Byte) (lo : Nat) (h : memWfFrom lo m = true) :
    memRead (memWrite m a b) a = b := by
  induction m generalizing lo with
  | nil => unfold memWrite; split <;> simp_all [memRead]
  | cons c t ih =>
    obtain ⟨c, u⟩ := c
    simp only [memWfFrom, Bool.and_eq_true, decide_eq_true_eq, bne_iff_ne, ne_eq] at h
    obtain ⟨⟨⟨_, _⟩, _⟩, ht⟩ := h
    have skip : ∀ (t : Memory) (lo : Nat), memWfFrom lo t = true → a < lo → memRead t a = unlistedByte a := by
      intro t
      induction t with
      | nil => intros; rfl
      | cons d t ih =>
        obtain ⟨d, w⟩ := d
        intro lo hw hlt
        simp only [memWfFrom, Bool.and_eq_true, decide_eq_true_eq, bne_iff_ne, ne_eq] at hw
        have : d ≠ a := by omega
        simp only [memRead, this, if_false]
        exact ih (d + 1) hw.2 (by omega)
    unfold memWrite
    split
    · split
      · rename_i hlt he
        have : c ≠ a := by omega
        simp only [memRead, this, if_false, he]
        exact skip t (c + 1) ht (by omega)
      · simp [memRead]
    · split
      · rename_i he
        subst he
        split
        · rename_i hu
          rw [hu]
          exact skip t (a + 1) ht (by omega)
        · simp [memRead]
      · rename_i hne
        have : c ≠ a := fun e => hne e.symm
        simp only [memRead, this, if_false]
        exact ih (c + 1) ht

theorem memRead_memWrite_other (m : Memory) (a k : Nat) (b : Byte) (h : k ≠ a) :
    memRead (memWrite m a b) k = memRead m k := by
  have h' : a ≠ k := fun e => h e.symm
  induction m with
  | nil => unfold memWrite; split <;> simp [memRead, h']
  | cons c t ih =>
    obtain ⟨c, u⟩ := c
    unfold memWrite
    split
    · split <;> simp [memRead, h']
    · split
      · rename_i e
        subst e
        split <;> simp [memRead, h']
      · simp only [memRead, ih]

theorem memWfFrom_weaken (m : Memory) (lo lo' : Nat) (hlo : lo ≤ lo') (h : memWfFrom lo' m = true) :
    memWfFrom lo m = true := by
  cases m with
  | nil => rfl
  | cons c t =>
    obtain ⟨c, u⟩ := c
    simp only [memWfFrom, Bool.and_eq_true, decide_eq_true_eq] at h ⊢
    exact ⟨⟨⟨by omega, h.1.1.2⟩, h.1.2⟩, h.2⟩

theorem memWfFrom_memWrite (m : Memory) (a lo : Nat) (b : Byte) (hlo : lo ≤ a) (ha : a ≤ 0xFFF)
    (h : memWfFrom lo m = true) : memWfFrom lo (memWrite m a b) = true := by
  induction m generalizing lo with
  | nil => unfold memWrite; split <;> simp_all [memWfFrom]
  | cons c t ih =>
    obtain ⟨c, u⟩ := c
    simp only [memWfFrom, Bool.and_eq_true, decide_eq_true_eq, bne_iff_ne, ne_eq] at h
    obtain ⟨⟨⟨h1, h2⟩, h3⟩, h4⟩ := h
    unfold memWrite
    split
    · split
      · simp_all [memWfFrom]
      · have : a + 1 ≤ c := by omega
        simp_all [memWfFrom]
    · split
      · rename_i e
        subst e
        split
        · exact memWfFrom_weaken t lo (a + 1) (by omega) h4
        · simp_all [memWfFrom]
      · have := ih (c + 1) (by omega) h4
        simp_all [memWfFrom]

/-- A store to a cell that exists keeps the canonical form. -/
theorem memWrite_wf (m : Memory) (a : Nat) (b : Byte) (ha : a ≤ 0xFFF) (h : Memory.wf m = true) :
    Memory.wf (memWrite m a b) = true :=
  memWfFrom_memWrite m a 0 b (Nat.zero_le a) ha h

/-- A block store inside the 4096 cells keeps the canonical form. -/
theorem memWriteBytes_wf (m : Memory) (a : Nat) (bs : List Byte) (ha : a + bs.length ≤ 0x1000)
    (h : Memory.wf m = true) : Memory.wf (memWriteBytes m a bs) = true := by
  induction bs generalizing m a with
  | nil => exact h
  | cons b bs ih =>
    simp only [List.length_cons] at ha
    exact ih (memWrite m a b) (a + 1) (by omega) (memWrite_wf m a b (by omega) h)

/-- A block store leaves every cell outside the block alone. -/
theorem memRead_memWriteBytes_outside (m : Memory) (a k : Nat) (bs : List Byte) (h : k < a ∨ a + bs.length ≤ k) :
    memRead (memWriteBytes m a bs) k = memRead m k := by
  induction bs generalizing m a with
  | nil => rfl
  | cons b bs ih =>
    simp only [List.length_cons] at h
    rw [memWriteBytes, ih (memWrite m a b) (a + 1) (by omega), memRead_memWrite_other m a k b (by omega)]

/-- A block store puts each byte at its address. -/
theorem memRead_memWriteBytes_inside (m : Memory) (a k : Nat) (bs : List Byte) (hk : k < bs.length)
    (ha : a + bs.length ≤ 0x1000) (h : Memory.wf m = true) :
    memRead (memWriteBytes m a bs) (a + k) = bs.getD k 0#8 := by
  induction bs generalizing m a k with
  | nil => simp at hk
  | cons b bs ih =>
    simp only [List.length_cons] at hk ha
    have hw := memWrite_wf m a b (by omega) h
    cases k with
    | zero =>
      rw [memWriteBytes, memRead_memWriteBytes_outside _ _ _ _ (by omega)]
      simpa using memRead_memWrite_same m a b 0 h
    | succ k =>
      have := ih (memWrite m a b) (a + 1) k (by omega) (by omega) hw
      rw [memWriteBytes, show a + (k + 1) = a + 1 + k by omega, this]
      simp

/-- The bytes of a block read, one by one. -/
theorem memReadBytes_getD (m : Memory) (a n k : Nat) (hk : k < n) :
    (memReadBytes m a n).getD k 0#8 = memRead m (a + k) := by
  simp [memReadBytes, hk]

@[simp] theorem memReadBytes_length (m : Memory) (a n : Nat) : (memReadBytes m a n).length = n := by
  simp [memReadBytes]

theorem reset_memory_wf : Memory.wf State.reset.mem = true := rfl

end Sys2Proof.Machine
end

