-- ==== Sys2Proof/Laws/Boot.lean ====
section
/-!
SUPPORT. What reset does with its arguments: when it accepts them, what each cell of memory then reads as, and that memory is
in its canonical form.
-/

namespace Sys2Proof.Machine

/-- The ROM is short enough and the rate positive (70_reset_and_hazards R231, R242). -/
theorem bootAccepts_iff (rom : List Byte) (tb : TimeBase) :
    bootAccepts rom tb = true ↔ rom.length ≤ 3584 ∧ 0 < tb.pCycle ∧ 0 < tb.pTick := by
  rw [bootAccepts, Bool.and_eq_true, Bool.and_eq_true, decide_eq_true_iff, decide_eq_true_iff, decide_eq_true_iff, romMax,
    and_assoc]

/-! ### What a cell that nothing has written reads as (10_state R34) -/

theorem unlistedByte_font (k : Nat) (hk : k < 80) : unlistedByte k = defaultFont[k] := by
  have h : k < fontBytes.length := hk
  simp only [unlistedByte, fontBase, Nat.zero_le, if_true, Nat.sub_zero, List.getD_eq_getElem?_getD,
    List.getElem?_eq_getElem h, Option.getD_some]
  rfl

theorem unlistedByte_above_font (a : Nat) (ha : 0x050 ≤ a) : unlistedByte a = 0x00#8 := by
  simp [unlistedByte, fontBase, List.getElem?_eq_none (show fontBytes.length ≤ a from ha)]

/-! ### Memory after reset (10_state R34, 20_memory R53, R54) -/

/-- The font part alone keeps the canonical form. -/
theorem fontMemory_wf (font : FontTable) : Memory.wf (memWriteBytes State.reset.mem fontBase font.toList) = true :=
  memWriteBytes_wf _ _ _ (by simp [fontBase]) reset_memory_wf

theorem bootMemory_wf (font : FontTable) (rom : List Byte) (h : rom.length ≤ 3584) :
    Memory.wf (bootMemory font rom) = true :=
  memWriteBytes_wf _ _ _ (by simp only [progBase]; omega) (fontMemory_wf font)

theorem bootMemory_font (font : FontTable) (rom : List Byte) (k : Fin 80) : memRead (bootMemory font rom) k.val = font[k] := by
  have hk := k.isLt
  rw [bootMemory, memRead_memWriteBytes_outside _ _ _ _ (by simp only [progBase]; omega)]
  have := memRead_memWriteBytes_inside State.reset.mem fontBase k.val font.toList (by simp) (by simp [fontBase]) reset_memory_wf
  simpa [fontBase] using this

theorem bootMemory_rom (font : FontTable) (rom : List Byte) (k : Nat) (hk : k < rom.length) (h : rom.length ≤ 3584) :
    memRead (bootMemory font rom) (0x200 + k) = rom.getD k 0#8 :=
  memRead_memWriteBytes_inside _ _ _ _ hk (by simp only [progBase]; omega) (fontMemory_wf font)

theorem bootMemory_elsewhere (font : FontTable) (rom : List Byte) (a : Nat) (hf : 0x050 ≤ a)
    (hr : a < 0x200 ∨ 0x200 + rom.length ≤ a) : memRead (bootMemory font rom) a = 0x00#8 := by
  rw [bootMemory, memRead_memWriteBytes_outside _ _ _ _ (by simpa [progBase] using hr),
    memRead_memWriteBytes_outside _ _ _ _ (by simp only [fontBase, Vector.length_toList]; omega)]
  exact unlistedByte_above_font a hf

end Sys2Proof.Machine
end

