-- ==== Sys2Proof/Laws/Encoding.lean ====
section
/-!
SUPPORT. Fields and formats undo each other: the fields of an assembled word are the parts it was assembled from, and a
word is assembled from its own fields (30_encoding R71, R72).
-/

namespace Sys2Proof

/-! ### The bits of the three formats -/

theorem getLsbD_wordNnn (op : Nibble) (nnn : Addr) (k : Nat) :
    (wordNnn op nnn).getLsbD k = if k < 12 then nnn.getLsbD k else op.getLsbD (k - 12) :=
  BitVec.getLsbD_append

theorem getLsbD_wordXkk (op x : Nibble) (kk : Byte) (k : Nat) :
    (wordXkk op x kk).getLsbD k =
      if k < 8 then kk.getLsbD k else if k - 8 < 4 then x.getLsbD (k - 8) else op.getLsbD (k - 8 - 4) :=
  (BitVec.getLsbD_append (x := (op ++ x : BitVec (4 + 4)))).trans (by rw [BitVec.getLsbD_append])

theorem getLsbD_wordXyn (op x y n : Nibble) (k : Nat) :
    (wordXyn op x y n).getLsbD k =
      if k < 4 then n.getLsbD k else if k - 4 < 4 then y.getLsbD (k - 4)
      else if k - 4 - 4 < 4 then x.getLsbD (k - 4 - 4) else op.getLsbD (k - 4 - 4 - 4) :=
  (BitVec.getLsbD_append (x := (op ++ x ++ y : BitVec (4 + 4 + 4)))).trans
    (by rw [BitVec.getLsbD_append, BitVec.getLsbD_append])

theorem getLsbD_wordOfBytes (hi lo : Byte) (k : Nat) :
    (wordOfBytes hi lo).getLsbD k = if k < 8 then lo.getLsbD k else hi.getLsbD (k - 8) :=
  BitVec.getLsbD_append

/-! ### The fields of an assembled word -/

@[simp] theorem opField_wordNnn (op : Nibble) (nnn : Addr) : opField (wordNnn op nnn) = op := by
  apply BitVec.eq_of_getLsbD_eq
  intro k hk
  simp [opField, getLsbD_wordNnn, hk]

@[simp] theorem nnnField_wordNnn (op : Nibble) (nnn : Addr) : nnnField (wordNnn op nnn) = nnn := by
  apply BitVec.eq_of_getLsbD_eq
  intro k hk
  simp [nnnField, getLsbD_wordNnn, hk]

@[simp] theorem opField_wordXkk (op x : Nibble) (kk : Byte) : opField (wordXkk op x kk) = op := by
  apply BitVec.eq_of_getLsbD_eq
  intro k hk
  simp [opField, getLsbD_wordXkk, hk, show ¬ 12 + k < 8 by omega, show ¬ 12 + k - 8 < 4 by omega,
    show 12 + k - 8 - 4 = k by omega]

@[simp] theorem xField_wordXkk (op x : Nibble) (kk : Byte) : xField (wordXkk op x kk) = x := by
  apply BitVec.eq_of_getLsbD_eq
  intro k hk
  simp [xField, getLsbD_wordXkk, hk]

@[simp] theorem kkField_wordXkk (op x : Nibble) (kk : Byte) : kkField (wordXkk op x kk) = kk := by
  apply BitVec.eq_of_getLsbD_eq
  intro k hk
  simp [kkField, getLsbD_wordXkk, hk]

@[simp] theorem opField_wordXyn (op x y n : Nibble) : opField (wordXyn op x y n) = op := by
  apply BitVec.eq_of_getLsbD_eq
  intro k hk
  simp [opField, getLsbD_wordXyn, hk, show ¬ 12 + k < 4 by omega, show ¬ 12 + k - 4 < 4 by omega,
    show ¬ 12 + k - 4 - 4 < 4 by omega, show 12 + k - 4 - 4 - 4 = k by omega]

@[simp] theorem xField_wordXyn (op x y n : Nibble) : xField (wordXyn op x y n) = x := by
  apply BitVec.eq_of_getLsbD_eq
  intro k hk
  simp [xField, getLsbD_wordXyn, hk, show ¬ 8 + k < 4 by omega, show ¬ 8 + k - 4 < 4 by omega,
    show 8 + k - 4 - 4 = k by omega]

@[simp] theorem yField_wordXyn (op x y n : Nibble) : yField (wordXyn op x y n) = y := by
  apply BitVec.eq_of_getLsbD_eq
  intro k hk
  simp [yField, getLsbD_wordXyn, hk]

@[simp] theorem nField_wordXyn (op x y n : Nibble) : nField (wordXyn op x y n) = n := by
  apply BitVec.eq_of_getLsbD_eq
  intro k hk
  simp [nField, getLsbD_wordXyn, hk]

/-! ### A word from its own fields -/

theorem wordNnn_fields (w : Word) : wordNnn (opField w) (nnnField w) = w := by
  apply BitVec.eq_of_getLsbD_eq
  intro k hk
  rw [getLsbD_wordNnn]
  split
  · simp [nnnField, *]
  · simp [opField, show k - 12 < 4 by omega, show 12 + (k - 12) = k by omega]

theorem wordXkk_fields (w : Word) : wordXkk (opField w) (xField w) (kkField w) = w := by
  apply BitVec.eq_of_getLsbD_eq
  intro k hk
  rw [getLsbD_wordXkk]
  split
  · simp [kkField, *]
  · split
    · simp [xField, *, show 8 + (k - 8) = k by omega]
    · simp [opField, show k - 8 - 4 < 4 by omega, show 12 + (k - 8 - 4) = k by omega]

theorem wordXyn_fields (w : Word) : wordXyn (opField w) (xField w) (yField w) (nField w) = w := by
  apply BitVec.eq_of_getLsbD_eq
  intro k hk
  rw [getLsbD_wordXyn]
  split
  · simp [nField, *]
  · split
    · simp [yField, *, show 4 + (k - 4) = k by omega]
    · split
      · simp [xField, *, show 8 + (k - 4 - 4) = k by omega]
      · simp [opField, show k - 4 - 4 - 4 < 4 by omega, show 12 + (k - 4 - 4 - 4) = k by omega]

/-- The bytes of a word, read back big-endian, are the word (20_memory R56). -/
@[simp] theorem wordOfBytes_bytes (w : Word) : wordOfBytes (w.extractLsb' 8 8) (w.extractLsb' 0 8) = w := by
  apply BitVec.eq_of_getLsbD_eq
  intro k hk
  rw [getLsbD_wordOfBytes]
  split
  · simp [*]
  · simp [show k - 8 < 8 by omega, show 8 + (k - 8) = k by omega]

end Sys2Proof
end

