-- ==== Sys2Proof/Laws/State.lean ====
section
/-!
SUPPORT. What each state update does to each field of State: one lemma per field per update, true by rfl. With them no
proof unfolds a record update.
-/

namespace Sys2Proof.Machine

/-! ### setV -/

@[simp] theorem setV_mem (x : Nibble) (b : Byte) (s : State) : (setV x b s).mem = s.mem := rfl
@[simp] theorem setV_v (x : Nibble) (b : Byte) (s : State) : (setV x b s).v = s.v.set x.toNat b := rfl
@[simp] theorem setV_ireg (x : Nibble) (b : Byte) (s : State) : (setV x b s).ireg = s.ireg := rfl
@[simp] theorem setV_pc (x : Nibble) (b : Byte) (s : State) : (setV x b s).pc = s.pc := rfl
@[simp] theorem setV_sp (x : Nibble) (b : Byte) (s : State) : (setV x b s).sp = s.sp := rfl
@[simp] theorem setV_stack (x : Nibble) (b : Byte) (s : State) : (setV x b s).stack = s.stack := rfl
@[simp] theorem setV_dt (x : Nibble) (b : Byte) (s : State) : (setV x b s).dt = s.dt := rfl
@[simp] theorem setV_st (x : Nibble) (b : Byte) (s : State) : (setV x b s).st = s.st := rfl
@[simp] theorem setV_cycleDeadline (x : Nibble) (b : Byte) (s : State) : (setV x b s).cycleDeadline = s.cycleDeadline := rfl
@[simp] theorem setV_run (x : Nibble) (b : Byte) (s : State) : (setV x b s).run = s.run := rfl
@[simp] theorem setV_fault (x : Nibble) (b : Byte) (s : State) : (setV x b s).fault = s.fault := rfl
@[simp] theorem setV_timeBase (x : Nibble) (b : Byte) (s : State) : (setV x b s).timeBase = s.timeBase := rfl
@[simp] theorem setV_now (x : Nibble) (b : Byte) (s : State) : (setV x b s).now = s.now := rfl
@[simp] theorem setV_inputs (x : Nibble) (b : Byte) (s : State) : (setV x b s).inputs = s.inputs := rfl
@[simp] theorem setV_inputCount (x : Nibble) (b : Byte) (s : State) : (setV x b s).inputCount = s.inputCount := rfl
@[simp] theorem setV_display (x : Nibble) (b : Byte) (s : State) : (setV x b s).display = s.display := rfl
@[simp] theorem setV_requests (x : Nibble) (b : Byte) (s : State) : (setV x b s).requests = s.requests := rfl

/-! ### setI -/

@[simp] theorem setI_mem (a : Addr) (s : State) : (setI a s).mem = s.mem := rfl
@[simp] theorem setI_v (a : Addr) (s : State) : (setI a s).v = s.v := rfl
@[simp] theorem setI_ireg (a : Addr) (s : State) : (setI a s).ireg = a := rfl
@[simp] theorem setI_pc (a : Addr) (s : State) : (setI a s).pc = s.pc := rfl
@[simp] theorem setI_sp (a : Addr) (s : State) : (setI a s).sp = s.sp := rfl
@[simp] theorem setI_stack (a : Addr) (s : State) : (setI a s).stack = s.stack := rfl
@[simp] theorem setI_dt (a : Addr) (s : State) : (setI a s).dt = s.dt := rfl
@[simp] theorem setI_st (a : Addr) (s : State) : (setI a s).st = s.st := rfl
@[simp] theorem setI_cycleDeadline (a : Addr) (s : State) : (setI a s).cycleDeadline = s.cycleDeadline := rfl
@[simp] theorem setI_run (a : Addr) (s : State) : (setI a s).run = s.run := rfl
@[simp] theorem setI_fault (a : Addr) (s : State) : (setI a s).fault = s.fault := rfl
@[simp] theorem setI_timeBase (a : Addr) (s : State) : (setI a s).timeBase = s.timeBase := rfl
@[simp] theorem setI_now (a : Addr) (s : State) : (setI a s).now = s.now := rfl
@[simp] theorem setI_inputs (a : Addr) (s : State) : (setI a s).inputs = s.inputs := rfl
@[simp] theorem setI_inputCount (a : Addr) (s : State) : (setI a s).inputCount = s.inputCount := rfl
@[simp] theorem setI_display (a : Addr) (s : State) : (setI a s).display = s.display := rfl
@[simp] theorem setI_requests (a : Addr) (s : State) : (setI a s).requests = s.requests := rfl

/-! ### setPc -/

@[simp] theorem setPc_mem (t : Nat) (s : State) : (setPc t s).mem = s.mem := rfl
@[simp] theorem setPc_v (t : Nat) (s : State) : (setPc t s).v = s.v := rfl
@[simp] theorem setPc_ireg (t : Nat) (s : State) : (setPc t s).ireg = s.ireg := rfl
@[simp] theorem setPc_pc (t : Nat) (s : State) : (setPc t s).pc = BitVec.ofNat 16 t := rfl
@[simp] theorem setPc_sp (t : Nat) (s : State) : (setPc t s).sp = s.sp := rfl
@[simp] theorem setPc_stack (t : Nat) (s : State) : (setPc t s).stack = s.stack := rfl
@[simp] theorem setPc_dt (t : Nat) (s : State) : (setPc t s).dt = s.dt := rfl
@[simp] theorem setPc_st (t : Nat) (s : State) : (setPc t s).st = s.st := rfl
@[simp] theorem setPc_cycleDeadline (t : Nat) (s : State) : (setPc t s).cycleDeadline = s.cycleDeadline := rfl
@[simp] theorem setPc_run (t : Nat) (s : State) : (setPc t s).run = s.run := rfl
@[simp] theorem setPc_fault (t : Nat) (s : State) : (setPc t s).fault = s.fault := rfl
@[simp] theorem setPc_timeBase (t : Nat) (s : State) : (setPc t s).timeBase = s.timeBase := rfl
@[simp] theorem setPc_now (t : Nat) (s : State) : (setPc t s).now = s.now := rfl
@[simp] theorem setPc_inputs (t : Nat) (s : State) : (setPc t s).inputs = s.inputs := rfl
@[simp] theorem setPc_inputCount (t : Nat) (s : State) : (setPc t s).inputCount = s.inputCount := rfl
@[simp] theorem setPc_display (t : Nat) (s : State) : (setPc t s).display = s.display := rfl
@[simp] theorem setPc_requests (t : Nat) (s : State) : (setPc t s).requests = s.requests := rfl

/-! ### setMem -/

@[simp] theorem setMem_mem (m : Memory) (s : State) : (setMem m s).mem = m := rfl
@[simp] theorem setMem_v (m : Memory) (s : State) : (setMem m s).v = s.v := rfl
@[simp] theorem setMem_ireg (m : Memory) (s : State) : (setMem m s).ireg = s.ireg := rfl
@[simp] theorem setMem_pc (m : Memory) (s : State) : (setMem m s).pc = s.pc := rfl
@[simp] theorem setMem_sp (m : Memory) (s : State) : (setMem m s).sp = s.sp := rfl
@[simp] theorem setMem_stack (m : Memory) (s : State) : (setMem m s).stack = s.stack := rfl
@[simp] theorem setMem_dt (m : Memory) (s : State) : (setMem m s).dt = s.dt := rfl
@[simp] theorem setMem_st (m : Memory) (s : State) : (setMem m s).st = s.st := rfl
@[simp] theorem setMem_cycleDeadline (m : Memory) (s : State) : (setMem m s).cycleDeadline = s.cycleDeadline := rfl
@[simp] theorem setMem_run (m : Memory) (s : State) : (setMem m s).run = s.run := rfl
@[simp] theorem setMem_fault (m : Memory) (s : State) : (setMem m s).fault = s.fault := rfl
@[simp] theorem setMem_timeBase (m : Memory) (s : State) : (setMem m s).timeBase = s.timeBase := rfl
@[simp] theorem setMem_now (m : Memory) (s : State) : (setMem m s).now = s.now := rfl
@[simp] theorem setMem_inputs (m : Memory) (s : State) : (setMem m s).inputs = s.inputs := rfl
@[simp] theorem setMem_inputCount (m : Memory) (s : State) : (setMem m s).inputCount = s.inputCount := rfl
@[simp] theorem setMem_display (m : Memory) (s : State) : (setMem m s).display = s.display := rfl
@[simp] theorem setMem_requests (m : Memory) (s : State) : (setMem m s).requests = s.requests := rfl

/-! ### send -/

@[simp] theorem send_mem (r : Request) (s : State) : (send r s).mem = s.mem := rfl
@[simp] theorem send_v (r : Request) (s : State) : (send r s).v = s.v := rfl
@[simp] theorem send_ireg (r : Request) (s : State) : (send r s).ireg = s.ireg := rfl
@[simp] theorem send_pc (r : Request) (s : State) : (send r s).pc = s.pc := rfl
@[simp] theorem send_sp (r : Request) (s : State) : (send r s).sp = s.sp := rfl
@[simp] theorem send_stack (r : Request) (s : State) : (send r s).stack = s.stack := rfl
@[simp] theorem send_dt (r : Request) (s : State) : (send r s).dt = s.dt := rfl
@[simp] theorem send_st (r : Request) (s : State) : (send r s).st = s.st := rfl
@[simp] theorem send_cycleDeadline (r : Request) (s : State) : (send r s).cycleDeadline = s.cycleDeadline := rfl
@[simp] theorem send_run (r : Request) (s : State) : (send r s).run = s.run := rfl
@[simp] theorem send_fault (r : Request) (s : State) : (send r s).fault = s.fault := rfl
@[simp] theorem send_timeBase (r : Request) (s : State) : (send r s).timeBase = s.timeBase := rfl
@[simp] theorem send_now (r : Request) (s : State) : (send r s).now = s.now := rfl
@[simp] theorem send_inputs (r : Request) (s : State) : (send r s).inputs = s.inputs := rfl
@[simp] theorem send_inputCount (r : Request) (s : State) : (send r s).inputCount = s.inputCount := rfl
@[simp] theorem send_display (r : Request) (s : State) : (send r s).display = s.display := rfl
@[simp] theorem send_requests (r : Request) (s : State) : (send r s).requests = r :: s.requests := rfl

/-! ### setRun -/

@[simp] theorem setRun_mem (r : RunState) (s : State) : (setRun r s).mem = s.mem := rfl
@[simp] theorem setRun_v (r : RunState) (s : State) : (setRun r s).v = s.v := rfl
@[simp] theorem setRun_ireg (r : RunState) (s : State) : (setRun r s).ireg = s.ireg := rfl
@[simp] theorem setRun_pc (r : RunState) (s : State) : (setRun r s).pc = s.pc := rfl
@[simp] theorem setRun_sp (r : RunState) (s : State) : (setRun r s).sp = s.sp := rfl
@[simp] theorem setRun_stack (r : RunState) (s : State) : (setRun r s).stack = s.stack := rfl
@[simp] theorem setRun_dt (r : RunState) (s : State) : (setRun r s).dt = s.dt := rfl
@[simp] theorem setRun_st (r : RunState) (s : State) : (setRun r s).st = s.st := rfl
@[simp] theorem setRun_cycleDeadline (r : RunState) (s : State) : (setRun r s).cycleDeadline = s.cycleDeadline := rfl
@[simp] theorem setRun_run (r : RunState) (s : State) : (setRun r s).run = r := rfl
@[simp] theorem setRun_fault (r : RunState) (s : State) : (setRun r s).fault = s.fault := rfl
@[simp] theorem setRun_timeBase (r : RunState) (s : State) : (setRun r s).timeBase = s.timeBase := rfl
@[simp] theorem setRun_now (r : RunState) (s : State) : (setRun r s).now = s.now := rfl
@[simp] theorem setRun_inputs (r : RunState) (s : State) : (setRun r s).inputs = s.inputs := rfl
@[simp] theorem setRun_inputCount (r : RunState) (s : State) : (setRun r s).inputCount = s.inputCount := rfl
@[simp] theorem setRun_display (r : RunState) (s : State) : (setRun r s).display = s.display := rfl
@[simp] theorem setRun_requests (r : RunState) (s : State) : (setRun r s).requests = s.requests := rfl

/-! ### push -/

@[simp] theorem push_mem (w : Word) (s : State) : (push w s).mem = s.mem := rfl
@[simp] theorem push_v (w : Word) (s : State) : (push w s).v = s.v := rfl
@[simp] theorem push_ireg (w : Word) (s : State) : (push w s).ireg = s.ireg := rfl
@[simp] theorem push_pc (w : Word) (s : State) : (push w s).pc = s.pc := rfl
@[simp] theorem push_sp (w : Word) (s : State) : (push w s).sp = s.sp + 1 := rfl
@[simp] theorem push_stack (w : Word) (s : State) : (push w s).stack = s.stack.setIfInBounds s.sp.val w := rfl
@[simp] theorem push_dt (w : Word) (s : State) : (push w s).dt = s.dt := rfl
@[simp] theorem push_st (w : Word) (s : State) : (push w s).st = s.st := rfl
@[simp] theorem push_cycleDeadline (w : Word) (s : State) : (push w s).cycleDeadline = s.cycleDeadline := rfl
@[simp] theorem push_run (w : Word) (s : State) : (push w s).run = s.run := rfl
@[simp] theorem push_fault (w : Word) (s : State) : (push w s).fault = s.fault := rfl
@[simp] theorem push_timeBase (w : Word) (s : State) : (push w s).timeBase = s.timeBase := rfl
@[simp] theorem push_now (w : Word) (s : State) : (push w s).now = s.now := rfl
@[simp] theorem push_inputs (w : Word) (s : State) : (push w s).inputs = s.inputs := rfl
@[simp] theorem push_inputCount (w : Word) (s : State) : (push w s).inputCount = s.inputCount := rfl
@[simp] theorem push_display (w : Word) (s : State) : (push w s).display = s.display := rfl
@[simp] theorem push_requests (w : Word) (s : State) : (push w s).requests = s.requests := rfl

/-! ### dropTop -/

@[simp] theorem dropTop_mem (s : State) : (dropTop s).mem = s.mem := rfl
@[simp] theorem dropTop_v (s : State) : (dropTop s).v = s.v := rfl
@[simp] theorem dropTop_ireg (s : State) : (dropTop s).ireg = s.ireg := rfl
@[simp] theorem dropTop_pc (s : State) : (dropTop s).pc = s.pc := rfl
@[simp] theorem dropTop_sp (s : State) : (dropTop s).sp = s.sp - 1 := rfl
@[simp] theorem dropTop_stack (s : State) : (dropTop s).stack = s.stack := rfl
@[simp] theorem dropTop_dt (s : State) : (dropTop s).dt = s.dt := rfl
@[simp] theorem dropTop_st (s : State) : (dropTop s).st = s.st := rfl
@[simp] theorem dropTop_cycleDeadline (s : State) : (dropTop s).cycleDeadline = s.cycleDeadline := rfl
@[simp] theorem dropTop_run (s : State) : (dropTop s).run = s.run := rfl
@[simp] theorem dropTop_fault (s : State) : (dropTop s).fault = s.fault := rfl
@[simp] theorem dropTop_timeBase (s : State) : (dropTop s).timeBase = s.timeBase := rfl
@[simp] theorem dropTop_now (s : State) : (dropTop s).now = s.now := rfl
@[simp] theorem dropTop_inputs (s : State) : (dropTop s).inputs = s.inputs := rfl
@[simp] theorem dropTop_inputCount (s : State) : (dropTop s).inputCount = s.inputCount := rfl
@[simp] theorem dropTop_display (s : State) : (dropTop s).display = s.display := rfl
@[simp] theorem dropTop_requests (s : State) : (dropTop s).requests = s.requests := rfl

/-! ### raise -/

@[simp] theorem raise_mem (k : FaultKind) (w : Word) (s : State) : (raise k w s).mem = s.mem := rfl
@[simp] theorem raise_v (k : FaultKind) (w : Word) (s : State) : (raise k w s).v = s.v := rfl
@[simp] theorem raise_ireg (k : FaultKind) (w : Word) (s : State) : (raise k w s).ireg = s.ireg := rfl
@[simp] theorem raise_pc (k : FaultKind) (w : Word) (s : State) : (raise k w s).pc = s.pc := rfl
@[simp] theorem raise_sp (k : FaultKind) (w : Word) (s : State) : (raise k w s).sp = s.sp := rfl
@[simp] theorem raise_stack (k : FaultKind) (w : Word) (s : State) : (raise k w s).stack = s.stack := rfl
@[simp] theorem raise_dt (k : FaultKind) (w : Word) (s : State) : (raise k w s).dt = s.dt := rfl
@[simp] theorem raise_st (k : FaultKind) (w : Word) (s : State) : (raise k w s).st = s.st := rfl
@[simp] theorem raise_cycleDeadline (k : FaultKind) (w : Word) (s : State) : (raise k w s).cycleDeadline = s.cycleDeadline := rfl
@[simp] theorem raise_run (k : FaultKind) (w : Word) (s : State) : (raise k w s).run = .halted := rfl
@[simp] theorem raise_fault (k : FaultKind) (w : Word) (s : State) : (raise k w s).fault = { kind := k, opcode := w, pc := s.pc } := rfl
@[simp] theorem raise_timeBase (k : FaultKind) (w : Word) (s : State) : (raise k w s).timeBase = s.timeBase := rfl
@[simp] theorem raise_now (k : FaultKind) (w : Word) (s : State) : (raise k w s).now = s.now := rfl
@[simp] theorem raise_inputs (k : FaultKind) (w : Word) (s : State) : (raise k w s).inputs = s.inputs := rfl
@[simp] theorem raise_inputCount (k : FaultKind) (w : Word) (s : State) : (raise k w s).inputCount = s.inputCount := rfl
@[simp] theorem raise_display (k : FaultKind) (w : Word) (s : State) : (raise k w s).display = s.display := rfl
@[simp] theorem raise_requests (k : FaultKind) (w : Word) (s : State) : (raise k w s).requests = s.requests := rfl

/-! ### loadRegs -/

@[simp] theorem loadRegs_mem (x : Nibble) (s : State) : (loadRegs x s).mem = s.mem := rfl
@[simp] theorem loadRegs_ireg (x : Nibble) (s : State) : (loadRegs x s).ireg = s.ireg := rfl
@[simp] theorem loadRegs_pc (x : Nibble) (s : State) : (loadRegs x s).pc = s.pc := rfl
@[simp] theorem loadRegs_sp (x : Nibble) (s : State) : (loadRegs x s).sp = s.sp := rfl
@[simp] theorem loadRegs_stack (x : Nibble) (s : State) : (loadRegs x s).stack = s.stack := rfl
@[simp] theorem loadRegs_dt (x : Nibble) (s : State) : (loadRegs x s).dt = s.dt := rfl
@[simp] theorem loadRegs_st (x : Nibble) (s : State) : (loadRegs x s).st = s.st := rfl
@[simp] theorem loadRegs_cycleDeadline (x : Nibble) (s : State) : (loadRegs x s).cycleDeadline = s.cycleDeadline := rfl
@[simp] theorem loadRegs_run (x : Nibble) (s : State) : (loadRegs x s).run = s.run := rfl
@[simp] theorem loadRegs_fault (x : Nibble) (s : State) : (loadRegs x s).fault = s.fault := rfl
@[simp] theorem loadRegs_timeBase (x : Nibble) (s : State) : (loadRegs x s).timeBase = s.timeBase := rfl
@[simp] theorem loadRegs_now (x : Nibble) (s : State) : (loadRegs x s).now = s.now := rfl
@[simp] theorem loadRegs_inputs (x : Nibble) (s : State) : (loadRegs x s).inputs = s.inputs := rfl
@[simp] theorem loadRegs_inputCount (x : Nibble) (s : State) : (loadRegs x s).inputCount = s.inputCount := rfl
@[simp] theorem loadRegs_display (x : Nibble) (s : State) : (loadRegs x s).display = s.display := rfl
@[simp] theorem loadRegs_requests (x : Nibble) (s : State) : (loadRegs x s).requests = s.requests := rfl

/-! ### writeFlagThenResult -/

@[simp] theorem writeFlagThenResult_mem (x : Nibble) (f b : Byte) (s : State) : (writeFlagThenResult x f b s).mem = s.mem := rfl
@[simp] theorem writeFlagThenResult_ireg (x : Nibble) (f b : Byte) (s : State) : (writeFlagThenResult x f b s).ireg = s.ireg := rfl
@[simp] theorem writeFlagThenResult_pc (x : Nibble) (f b : Byte) (s : State) : (writeFlagThenResult x f b s).pc = s.pc := rfl
@[simp] theorem writeFlagThenResult_sp (x : Nibble) (f b : Byte) (s : State) : (writeFlagThenResult x f b s).sp = s.sp := rfl
@[simp] theorem writeFlagThenResult_stack (x : Nibble) (f b : Byte) (s : State) : (writeFlagThenResult x f b s).stack = s.stack := rfl
@[simp] theorem writeFlagThenResult_dt (x : Nibble) (f b : Byte) (s : State) : (writeFlagThenResult x f b s).dt = s.dt := rfl
@[simp] theorem writeFlagThenResult_st (x : Nibble) (f b : Byte) (s : State) : (writeFlagThenResult x f b s).st = s.st := rfl
@[simp] theorem writeFlagThenResult_cycleDeadline (x : Nibble) (f b : Byte) (s : State) : (writeFlagThenResult x f b s).cycleDeadline = s.cycleDeadline := rfl
@[simp] theorem writeFlagThenResult_run (x : Nibble) (f b : Byte) (s : State) : (writeFlagThenResult x f b s).run = s.run := rfl
@[simp] theorem writeFlagThenResult_fault (x : Nibble) (f b : Byte) (s : State) : (writeFlagThenResult x f b s).fault = s.fault := rfl
@[simp] theorem writeFlagThenResult_timeBase (x : Nibble) (f b : Byte) (s : State) : (writeFlagThenResult x f b s).timeBase = s.timeBase := rfl
@[simp] theorem writeFlagThenResult_now (x : Nibble) (f b : Byte) (s : State) : (writeFlagThenResult x f b s).now = s.now := rfl
@[simp] theorem writeFlagThenResult_inputs (x : Nibble) (f b : Byte) (s : State) : (writeFlagThenResult x f b s).inputs = s.inputs := rfl
@[simp] theorem writeFlagThenResult_inputCount (x : Nibble) (f b : Byte) (s : State) : (writeFlagThenResult x f b s).inputCount = s.inputCount := rfl
@[simp] theorem writeFlagThenResult_display (x : Nibble) (f b : Byte) (s : State) : (writeFlagThenResult x f b s).display = s.display := rfl
@[simp] theorem writeFlagThenResult_requests (x : Nibble) (f b : Byte) (s : State) : (writeFlagThenResult x f b s).requests = s.requests := rfl

/-! ### setDelayTimer -/

@[simp] theorem setDelayTimer_mem (b : Byte) (s : State) : (setDelayTimer b s).mem = s.mem := rfl
@[simp] theorem setDelayTimer_v (b : Byte) (s : State) : (setDelayTimer b s).v = s.v := rfl
@[simp] theorem setDelayTimer_ireg (b : Byte) (s : State) : (setDelayTimer b s).ireg = s.ireg := rfl
@[simp] theorem setDelayTimer_pc (b : Byte) (s : State) : (setDelayTimer b s).pc = s.pc := rfl
@[simp] theorem setDelayTimer_sp (b : Byte) (s : State) : (setDelayTimer b s).sp = s.sp := rfl
@[simp] theorem setDelayTimer_stack (b : Byte) (s : State) : (setDelayTimer b s).stack = s.stack := rfl
@[simp] theorem setDelayTimer_dt (b : Byte) (s : State) : (setDelayTimer b s).dt = timerSet s.timeBase b s.now := rfl
@[simp] theorem setDelayTimer_st (b : Byte) (s : State) : (setDelayTimer b s).st = s.st := rfl
@[simp] theorem setDelayTimer_cycleDeadline (b : Byte) (s : State) : (setDelayTimer b s).cycleDeadline = s.cycleDeadline := rfl
@[simp] theorem setDelayTimer_run (b : Byte) (s : State) : (setDelayTimer b s).run = s.run := rfl
@[simp] theorem setDelayTimer_fault (b : Byte) (s : State) : (setDelayTimer b s).fault = s.fault := rfl
@[simp] theorem setDelayTimer_timeBase (b : Byte) (s : State) : (setDelayTimer b s).timeBase = s.timeBase := rfl
@[simp] theorem setDelayTimer_now (b : Byte) (s : State) : (setDelayTimer b s).now = s.now := rfl
@[simp] theorem setDelayTimer_inputs (b : Byte) (s : State) : (setDelayTimer b s).inputs = s.inputs := rfl
@[simp] theorem setDelayTimer_inputCount (b : Byte) (s : State) : (setDelayTimer b s).inputCount = s.inputCount := rfl
@[simp] theorem setDelayTimer_display (b : Byte) (s : State) : (setDelayTimer b s).display = s.display := rfl
@[simp] theorem setDelayTimer_requests (b : Byte) (s : State) : (setDelayTimer b s).requests = s.requests := rfl

/-! ### setSoundTimer -/

@[simp] theorem setSoundTimer_mem (b : Byte) (s : State) : (setSoundTimer b s).mem = s.mem := rfl
@[simp] theorem setSoundTimer_v (b : Byte) (s : State) : (setSoundTimer b s).v = s.v := rfl
@[simp] theorem setSoundTimer_ireg (b : Byte) (s : State) : (setSoundTimer b s).ireg = s.ireg := rfl
@[simp] theorem setSoundTimer_pc (b : Byte) (s : State) : (setSoundTimer b s).pc = s.pc := rfl
@[simp] theorem setSoundTimer_sp (b : Byte) (s : State) : (setSoundTimer b s).sp = s.sp := rfl
@[simp] theorem setSoundTimer_stack (b : Byte) (s : State) : (setSoundTimer b s).stack = s.stack := rfl
@[simp] theorem setSoundTimer_dt (b : Byte) (s : State) : (setSoundTimer b s).dt = s.dt := rfl
@[simp] theorem setSoundTimer_st (b : Byte) (s : State) : (setSoundTimer b s).st = timerSet s.timeBase b s.now := rfl
@[simp] theorem setSoundTimer_cycleDeadline (b : Byte) (s : State) : (setSoundTimer b s).cycleDeadline = s.cycleDeadline := rfl
@[simp] theorem setSoundTimer_run (b : Byte) (s : State) : (setSoundTimer b s).run = s.run := rfl
@[simp] theorem setSoundTimer_fault (b : Byte) (s : State) : (setSoundTimer b s).fault = s.fault := rfl
@[simp] theorem setSoundTimer_timeBase (b : Byte) (s : State) : (setSoundTimer b s).timeBase = s.timeBase := rfl
@[simp] theorem setSoundTimer_now (b : Byte) (s : State) : (setSoundTimer b s).now = s.now := rfl
@[simp] theorem setSoundTimer_inputs (b : Byte) (s : State) : (setSoundTimer b s).inputs = s.inputs := rfl
@[simp] theorem setSoundTimer_inputCount (b : Byte) (s : State) : (setSoundTimer b s).inputCount = s.inputCount := rfl
@[simp] theorem setSoundTimer_display (b : Byte) (s : State) : (setSoundTimer b s).display = s.display := rfl
@[simp] theorem setSoundTimer_requests (b : Byte) (s : State) : (setSoundTimer b s).requests = .tone b :: s.requests := rfl

/-! ### displayClear -/

@[simp] theorem displayClear_mem (s : State) : (displayClear s).mem = s.mem := rfl
@[simp] theorem displayClear_v (s : State) : (displayClear s).v = s.v := rfl
@[simp] theorem displayClear_ireg (s : State) : (displayClear s).ireg = s.ireg := rfl
@[simp] theorem displayClear_pc (s : State) : (displayClear s).pc = s.pc := rfl
@[simp] theorem displayClear_sp (s : State) : (displayClear s).sp = s.sp := rfl
@[simp] theorem displayClear_stack (s : State) : (displayClear s).stack = s.stack := rfl
@[simp] theorem displayClear_dt (s : State) : (displayClear s).dt = s.dt := rfl
@[simp] theorem displayClear_st (s : State) : (displayClear s).st = s.st := rfl
@[simp] theorem displayClear_cycleDeadline (s : State) : (displayClear s).cycleDeadline = s.cycleDeadline := rfl
@[simp] theorem displayClear_run (s : State) : (displayClear s).run = s.run := rfl
@[simp] theorem displayClear_fault (s : State) : (displayClear s).fault = s.fault := rfl
@[simp] theorem displayClear_timeBase (s : State) : (displayClear s).timeBase = s.timeBase := rfl
@[simp] theorem displayClear_now (s : State) : (displayClear s).now = s.now := rfl
@[simp] theorem displayClear_inputs (s : State) : (displayClear s).inputs = s.inputs := rfl
@[simp] theorem displayClear_inputCount (s : State) : (displayClear s).inputCount = s.inputCount := rfl
@[simp] theorem displayClear_display (s : State) : (displayClear s).display = blankBitmap := rfl
@[simp] theorem displayClear_requests (s : State) : (displayClear s).requests = .displayClear :: s.requests := rfl

/-! ### displayDraw -/

@[simp] theorem displayDraw_mem (bs : List Byte) (x y : Byte) (s : State) : (displayDraw bs x y s).mem = s.mem := rfl
@[simp] theorem displayDraw_v (bs : List Byte) (x y : Byte) (s : State) : (displayDraw bs x y s).v = s.v := rfl
@[simp] theorem displayDraw_ireg (bs : List Byte) (x y : Byte) (s : State) : (displayDraw bs x y s).ireg = s.ireg := rfl
@[simp] theorem displayDraw_pc (bs : List Byte) (x y : Byte) (s : State) : (displayDraw bs x y s).pc = s.pc := rfl
@[simp] theorem displayDraw_sp (bs : List Byte) (x y : Byte) (s : State) : (displayDraw bs x y s).sp = s.sp := rfl
@[simp] theorem displayDraw_stack (bs : List Byte) (x y : Byte) (s : State) : (displayDraw bs x y s).stack = s.stack := rfl
@[simp] theorem displayDraw_dt (bs : List Byte) (x y : Byte) (s : State) : (displayDraw bs x y s).dt = s.dt := rfl
@[simp] theorem displayDraw_st (bs : List Byte) (x y : Byte) (s : State) : (displayDraw bs x y s).st = s.st := rfl
@[simp] theorem displayDraw_cycleDeadline (bs : List Byte) (x y : Byte) (s : State) : (displayDraw bs x y s).cycleDeadline = s.cycleDeadline := rfl
@[simp] theorem displayDraw_run (bs : List Byte) (x y : Byte) (s : State) : (displayDraw bs x y s).run = s.run := rfl
@[simp] theorem displayDraw_fault (bs : List Byte) (x y : Byte) (s : State) : (displayDraw bs x y s).fault = s.fault := rfl
@[simp] theorem displayDraw_timeBase (bs : List Byte) (x y : Byte) (s : State) : (displayDraw bs x y s).timeBase = s.timeBase := rfl
@[simp] theorem displayDraw_now (bs : List Byte) (x y : Byte) (s : State) : (displayDraw bs x y s).now = s.now := rfl
@[simp] theorem displayDraw_inputs (bs : List Byte) (x y : Byte) (s : State) : (displayDraw bs x y s).inputs = s.inputs := rfl
@[simp] theorem displayDraw_inputCount (bs : List Byte) (x y : Byte) (s : State) : (displayDraw bs x y s).inputCount = s.inputCount := rfl
@[simp] theorem displayDraw_display (bs : List Byte) (x y : Byte) (s : State) : (displayDraw bs x y s).display = (drawSprite s.display bs x y).2 := rfl
@[simp] theorem displayDraw_requests (bs : List Byte) (x y : Byte) (s : State) : (displayDraw bs x y s).requests = .displayDraw bs x y :: s.requests := rfl

/-! ### takeInputs -/

@[simp] theorem takeInputs_mem (s : State) : (takeInputs s).mem = s.mem := rfl
@[simp] theorem takeInputs_v (s : State) : (takeInputs s).v = s.v := rfl
@[simp] theorem takeInputs_ireg (s : State) : (takeInputs s).ireg = s.ireg := rfl
@[simp] theorem takeInputs_pc (s : State) : (takeInputs s).pc = s.pc := rfl
@[simp] theorem takeInputs_sp (s : State) : (takeInputs s).sp = s.sp := rfl
@[simp] theorem takeInputs_stack (s : State) : (takeInputs s).stack = s.stack := rfl
@[simp] theorem takeInputs_dt (s : State) : (takeInputs s).dt = s.dt := rfl
@[simp] theorem takeInputs_st (s : State) : (takeInputs s).st = s.st := rfl
@[simp] theorem takeInputs_cycleDeadline (s : State) : (takeInputs s).cycleDeadline = s.cycleDeadline := rfl
@[simp] theorem takeInputs_run (s : State) : (takeInputs s).run = s.run := rfl
@[simp] theorem takeInputs_fault (s : State) : (takeInputs s).fault = s.fault := rfl
@[simp] theorem takeInputs_timeBase (s : State) : (takeInputs s).timeBase = s.timeBase := rfl
@[simp] theorem takeInputs_now (s : State) : (takeInputs s).now = s.now := rfl
@[simp] theorem takeInputs_inputs (s : State) : (takeInputs s).inputs = Config.inputs s.inputCount := rfl
@[simp] theorem takeInputs_inputCount (s : State) : (takeInputs s).inputCount = s.inputCount + 1 := rfl
@[simp] theorem takeInputs_display (s : State) : (takeInputs s).display = s.display := rfl
@[simp] theorem takeInputs_requests (s : State) : (takeInputs s).requests = s.requests := rfl

/-! ### startClock -/

@[simp] theorem startClock_mem (s : State) : (startClock s).mem = s.mem := rfl
@[simp] theorem startClock_v (s : State) : (startClock s).v = s.v := rfl
@[simp] theorem startClock_ireg (s : State) : (startClock s).ireg = s.ireg := rfl
@[simp] theorem startClock_pc (s : State) : (startClock s).pc = s.pc := rfl
@[simp] theorem startClock_sp (s : State) : (startClock s).sp = s.sp := rfl
@[simp] theorem startClock_stack (s : State) : (startClock s).stack = s.stack := rfl
@[simp] theorem startClock_dt (s : State) : (startClock s).dt = s.dt := rfl
@[simp] theorem startClock_st (s : State) : (startClock s).st = s.st := rfl
@[simp] theorem startClock_cycleDeadline (s : State) : (startClock s).cycleDeadline = s.cycleDeadline + s.timeBase.pCycle := rfl
@[simp] theorem startClock_run (s : State) : (startClock s).run = s.run := rfl
@[simp] theorem startClock_fault (s : State) : (startClock s).fault = s.fault := rfl
@[simp] theorem startClock_timeBase (s : State) : (startClock s).timeBase = s.timeBase := rfl
@[simp] theorem startClock_now (s : State) : (startClock s).now = max s.cycleDeadline s.now := rfl
@[simp] theorem startClock_inputs (s : State) : (startClock s).inputs = s.inputs := rfl
@[simp] theorem startClock_inputCount (s : State) : (startClock s).inputCount = s.inputCount := rfl
@[simp] theorem startClock_display (s : State) : (startClock s).display = s.display := rfl
@[simp] theorem startClock_requests (s : State) : (startClock s).requests = .clockNow :: s.requests := rfl

/-! ### checkTimers -/

@[simp] theorem checkTimers_mem (s : State) : (checkTimers s).mem = s.mem := rfl
@[simp] theorem checkTimers_v (s : State) : (checkTimers s).v = s.v := rfl
@[simp] theorem checkTimers_ireg (s : State) : (checkTimers s).ireg = s.ireg := rfl
@[simp] theorem checkTimers_pc (s : State) : (checkTimers s).pc = s.pc := rfl
@[simp] theorem checkTimers_sp (s : State) : (checkTimers s).sp = s.sp := rfl
@[simp] theorem checkTimers_stack (s : State) : (checkTimers s).stack = s.stack := rfl
@[simp] theorem checkTimers_dt (s : State) : (checkTimers s).dt = timerCheck s.timeBase s.now s.dt := rfl
@[simp] theorem checkTimers_st (s : State) : (checkTimers s).st = timerCheck s.timeBase s.now s.st := rfl
@[simp] theorem checkTimers_cycleDeadline (s : State) : (checkTimers s).cycleDeadline = s.cycleDeadline := rfl
@[simp] theorem checkTimers_run (s : State) : (checkTimers s).run = s.run := rfl
@[simp] theorem checkTimers_fault (s : State) : (checkTimers s).fault = s.fault := rfl
@[simp] theorem checkTimers_timeBase (s : State) : (checkTimers s).timeBase = s.timeBase := rfl
@[simp] theorem checkTimers_now (s : State) : (checkTimers s).now = s.now := rfl
@[simp] theorem checkTimers_inputs (s : State) : (checkTimers s).inputs = s.inputs := rfl
@[simp] theorem checkTimers_inputCount (s : State) : (checkTimers s).inputCount = s.inputCount := rfl
@[simp] theorem checkTimers_display (s : State) : (checkTimers s).display = s.display := rfl
@[simp] theorem checkTimers_requests (s : State) : (checkTimers s).requests = s.requests := rfl

/-! ### passStall -/

@[simp] theorem passStall_mem (s : State) : (passStall s).mem = s.mem := rfl
@[simp] theorem passStall_v (s : State) : (passStall s).v = s.v := rfl
@[simp] theorem passStall_ireg (s : State) : (passStall s).ireg = s.ireg := rfl
@[simp] theorem passStall_pc (s : State) : (passStall s).pc = s.pc := rfl
@[simp] theorem passStall_sp (s : State) : (passStall s).sp = s.sp := rfl
@[simp] theorem passStall_stack (s : State) : (passStall s).stack = s.stack := rfl
@[simp] theorem passStall_dt (s : State) : (passStall s).dt = s.dt := rfl
@[simp] theorem passStall_st (s : State) : (passStall s).st = s.st := rfl
@[simp] theorem passStall_cycleDeadline (s : State) : (passStall s).cycleDeadline = s.cycleDeadline := rfl
@[simp] theorem passStall_run (s : State) : (passStall s).run = s.run := rfl
@[simp] theorem passStall_fault (s : State) : (passStall s).fault = s.fault := rfl
@[simp] theorem passStall_timeBase (s : State) : (passStall s).timeBase = s.timeBase := rfl
@[simp] theorem passStall_now (s : State) : (passStall s).now = s.now + s.inputs.stall := rfl
@[simp] theorem passStall_inputs (s : State) : (passStall s).inputs = s.inputs := rfl
@[simp] theorem passStall_inputCount (s : State) : (passStall s).inputCount = s.inputCount := rfl
@[simp] theorem passStall_display (s : State) : (passStall s).display = s.display := rfl
@[simp] theorem passStall_requests (s : State) : (passStall s).requests = s.requests := rfl

end Sys2Proof.Machine
end

