-- ==== Sys2Proof/Laws/Ops.lean ====
section
/-!
SUPPORT. What each shared operation can do, once: register reads after writes, the PC check, the execute template,
flags, timers, the keyboard wait, and that every meaning answers a next state.
-/

namespace Sys2Proof.Machine

/-! ### Registers -/

@[simp] theorem getV_setV (x r : Nibble) (b : Byte) (s : State) :
    getV (setV x b s) r = if r = x then b else getV s r := by
  by_cases h : r = x
  · subst h; simp [getV, setV]
  · have : x.toNat ≠ r.toNat := fun e => h (BitVec.eq_of_toNat_eq e.symm)
    simp [getV, setV, h, this]

@[simp] theorem getV_setI (a : Addr) (s : State) (r : Nibble) : getV (setI a s) r = getV s r := rfl
@[simp] theorem getV_setPc (t : Nat) (s : State) (r : Nibble) : getV (setPc t s) r = getV s r := rfl
@[simp] theorem getV_setMem (m : Memory) (s : State) (r : Nibble) : getV (setMem m s) r = getV s r := rfl
@[simp] theorem getV_send (q : Request) (s : State) (r : Nibble) : getV (send q s) r = getV s r := rfl
@[simp] theorem getV_setRun (q : RunState) (s : State) (r : Nibble) : getV (setRun q s) r = getV s r := rfl
@[simp] theorem getV_raise (k : FaultKind) (w : Word) (s : State) (r : Nibble) : getV (raise k w s) r = getV s r := rfl

@[simp] theorem getV_writeFlagThenResult (x r : Nibble) (f b : Byte) (s : State) :
    getV (writeFlagThenResult x f b s) r = if r = x then b else if r = 15#4 then f else getV s r := by
  simp [writeFlagThenResult, vf]

/-- Fx65's registers: V0..Vx come from memory, the others are kept (R145). -/
@[simp] theorem getV_loadRegs (x r : Nibble) (s : State) :
    getV (loadRegs x s) r = if r.toNat ≤ x.toNat then memRead s.mem (s.ireg.toNat + r.toNat) else getV s r := by
  simp [getV, loadRegs, effAddr]

/-- Two register files that read alike are equal. -/
theorem v_ext (s t : State) (h : ∀ r, getV s r = getV t r) : s.v = t.v := by
  apply Vector.ext
  intro k hk
  have := h (BitVec.ofNat 4 k)
  have hm : k % 16 = k := Nat.mod_eq_of_lt hk
  simpa [getV, BitVec.toNat_ofNat, hm] using this

/-- The register block that Fx55 stores, register by register (R144). -/
theorem regBlock_getD (s : State) (x : Nibble) (k : Nat) (hk : k ≤ x.toNat) :
    (regBlock s x).getD k 0#8 = getV s (BitVec.ofNat 4 k) := by
  have hx := x.isLt
  have hk16 : k < 16 := by omega
  have hm : k % 16 = k := Nat.mod_eq_of_lt hk16
  simp [regBlock, getV, show k < x.toNat + 1 by omega, hk16, hm]

@[simp] theorem regBlock_length (s : State) (x : Nibble) : (regBlock s x).length = x.toNat + 1 := by
  have hx := x.isLt
  simp [regBlock]
  omega

@[simp] theorem bcdDigits_length (b : Byte) : (bcdDigits b).length = 3 := rfl

/-! ### The PC check and the template (R83, R84) -/

theorem pcValid_iff (t : Nat) : pcValid t = true ↔ PcTarget t := by
  simp [pcValid, PcTarget, and_assoc]

theorem setPc_toNat (t : Nat) (s : State) (h : PcTarget t) : (setPc t s).pc.toNat = t := by
  obtain ⟨_, _, h3⟩ := h
  simp [BitVec.toNat_ofNat]
  omega

theorem commit_of_valid (w : Word) (t : Nat) (f : State → State) (s : State) (h : PcTarget t) :
    commit w t f s = setPc t (f s) := by
  simp [commit, (pcValid_iff t).mpr h]

theorem commit_of_invalid (w : Word) (t : Nat) (f : State → State) (s : State) (h : ¬ PcTarget t) :
    commit w t f s = raise .pcOutOfRange w s := by
  have : ¬ pcValid t = true := fun e => h ((pcValid_iff t).mp e)
  simp [commit, this]

/-- Everything `commit` can do. -/
theorem commit_cases (w : Word) (t : Nat) (f : State → State) (s : State) :
    (PcTarget t ∧ commit w t f s = setPc t (f s)) ∨ (¬ PcTarget t ∧ commit w t f s = raise .pcOutOfRange w s) := by
  by_cases h : PcTarget t
  · exact .inl ⟨h, commit_of_valid w t f s h⟩
  · exact .inr ⟨h, commit_of_invalid w t f s h⟩

theorem advance_of_valid (w : Word) (f : State → State) (s : State) (h : PcTarget (s.pc.toNat + 2)) :
    advance w f s = setPc (s.pc.toNat + 2) (f s) :=
  commit_of_valid w _ f s h

theorem advance_of_invalid (w : Word) (f : State → State) (s : State) (h : ¬ PcTarget (s.pc.toNat + 2)) :
    advance w f s = raise .pcOutOfRange w s :=
  commit_of_invalid w _ f s h

theorem skipIf_eq (w : Word) (c : Bool) (s : State) :
    skipIf w c s = commit w (s.pc.toNat + if c then 4 else 2) id s := by
  cases c <;> rfl

@[simp] theorem guarded_true (k : FaultKind) (w : Word) (f : State → State) (s : State) : guarded true k w f s = f s := rfl
@[simp] theorem guarded_false (k : FaultKind) (w : Word) (f : State → State) (s : State) :
    guarded false k w f s = raise k w s := rfl

theorem raise_eq_haltedWith (k : FaultKind) (w : Word) (s : State) : raise k w s = haltedWith k w s := rfl

/-! ### Operands and flags -/

@[simp] theorem addrValid_iff (a : Nat) : addrValid a = true ↔ a ≤ 0xFFF := by simp [addrValid]
@[simp] theorem atMost15_iff (b : Byte) : atMost15 b = true ↔ b.toNat ≤ 15 := by simp [atMost15]

theorem spriteInRange_iff (s : State) (n : Nibble) :
    spriteInRange s n = true ↔ (0 < n.toNat → s.ireg.toNat + n.toNat - 1 ≤ 0xFFF) := by
  rw [spriteInRange, Bool.or_eq_true, decide_eq_true_eq, addrValid_iff, effAddr]
  omega

theorem flagByte_toNat (c : Bool) : (flagByte c).toNat = if c then 1 else 0 := by cases c <;> rfl

theorem keyIndex_toNat (s : State) (x : Nibble) (h : (getV s x).toNat ≤ 15) : (keyIndex s x).toNat = (getV s x).toNat := by
  simp [keyIndex]
  omega

/-! ### Timers (R197, R198) -/

theorem timerCheck_running (tb : TimeBase) (now : Nat) (t : Timer) (hc : t.count ≠ 0#8) (hd : t.deadline ≤ now) :
    timerCheck tb now t = { t with count := t.count - 1#8, deadline := t.deadline + tb.pTick } := by
  simp [timerCheck, hc, hd]

theorem timerCheck_idle (tb : TimeBase) (now : Nat) (t : Timer) (h : t.count = 0#8 ∨ now < t.deadline) :
    timerCheck tb now t = t := by
  rcases h with h | h
  · simp [timerCheck, h]
  · have : ¬ t.deadline ≤ now := by omega
    simp [timerCheck, this]

/-! ### Every meaning answers a next state -/

theorem exec_answers_next (ins : Instr) (s : State) : ∃ t, exec ins s = .next t := by
  cases ins <;> exact ⟨_, rfl⟩

end Sys2Proof.Machine
end

