-- ==== Sys2Proof/Laws/PerInstr.lean ====
section
/-!
SUPPORT. The family OpcodeRow: the word of every instruction lies in its own row of spec/opcode_table.json, so the
encoder agrees with the table's mask and match columns, which Decode.lean does not use.
-/

namespace Sys2Proof.Laws.OpcodeRow

/-- The row's mask and match, copied from the columns "mask" and "match" of spec/opcode_table.json. -/
def row (ins : Instr) : Word × Word :=
  match ins with
  | .cls => (0xFFFF#16, 0x00E0#16)
  | .ret => (0xFFFF#16, 0x00EE#16)
  | .sys _ => (0xF000#16, 0x0000#16)
  | .jp _ => (0xF000#16, 0x1000#16)
  | .call _ => (0xF000#16, 0x2000#16)
  | .seVxKk _ _ => (0xF000#16, 0x3000#16)
  | .sneVxKk _ _ => (0xF000#16, 0x4000#16)
  | .seVxVy _ _ => (0xF00F#16, 0x5000#16)
  | .ldVxKk _ _ => (0xF000#16, 0x6000#16)
  | .addVxKk _ _ => (0xF000#16, 0x7000#16)
  | .ldVxVy _ _ => (0xF00F#16, 0x8000#16)
  | .orVxVy _ _ => (0xF00F#16, 0x8001#16)
  | .andVxVy _ _ => (0xF00F#16, 0x8002#16)
  | .xorVxVy _ _ => (0xF00F#16, 0x8003#16)
  | .addVxVy _ _ => (0xF00F#16, 0x8004#16)
  | .subVxVy _ _ => (0xF00F#16, 0x8005#16)
  | .shrVx _ _ => (0xF00F#16, 0x8006#16)
  | .subnVxVy _ _ => (0xF00F#16, 0x8007#16)
  | .shlVx _ _ => (0xF00F#16, 0x800E#16)
  | .sneVxVy _ _ => (0xF00F#16, 0x9000#16)
  | .ldINnn _ => (0xF000#16, 0xA000#16)
  | .jpV0Nnn _ => (0xF000#16, 0xB000#16)
  | .rndVxKk _ _ => (0xF000#16, 0xC000#16)
  | .drwVxVyN _ _ _ => (0xF000#16, 0xD000#16)
  | .skpVx _ => (0xF0FF#16, 0xE09E#16)
  | .sknpVx _ => (0xF0FF#16, 0xE0A1#16)
  | .ldVxDt _ => (0xF0FF#16, 0xF007#16)
  | .ldVxK _ => (0xF0FF#16, 0xF00A#16)
  | .ldDtVx _ => (0xF0FF#16, 0xF015#16)
  | .ldStVx _ => (0xF0FF#16, 0xF018#16)
  | .addIVx _ => (0xF0FF#16, 0xF01E#16)
  | .ldFVx _ => (0xF0FF#16, 0xF029#16)
  | .ldBVx _ => (0xF0FF#16, 0xF033#16)
  | .ldMemVx _ => (0xF0FF#16, 0xF055#16)
  | .ldVxMem _ => (0xF0FF#16, 0xF065#16)

/-- The fixed bits of the instruction's word are those of its row (30_encoding R75). -/
def Statement (ins : Instr) : Prop := encode ins &&& (row ins).1 = (row ins).2

/-! ### The fixed bits of each format (R72) -/

theorem and_ones (a : Nibble) : a &&& 0xF#4 = a := BitVec.and_allOnes

theorem fixed_wordNnn (op : Nibble) (nnn : Addr) : wordNnn op nnn &&& (0xF#4 ++ 0x000#12 : Word) = op ++ 0x000#12 := by
  rw [wordNnn, BitVec.and_append, and_ones, BitVec.and_zero]

theorem fixed_wordXkk (op x : Nibble) (kk mask : Byte) :
    wordXkk op x kk &&& (0xF#4 ++ 0x0#4 ++ mask : Word) = op ++ 0x0#4 ++ (kk &&& mask) := by
  rw [wordXkk, BitVec.and_append, BitVec.and_append, and_ones, BitVec.and_zero]

theorem fixed_wordXyn (op x y n mask : Nibble) :
    wordXyn op x y n &&& (0xF#4 ++ 0x0#4 ++ 0x0#4 ++ mask : Word) = op ++ 0x0#4 ++ 0x0#4 ++ (n &&& mask) := by
  rw [wordXyn, BitVec.and_append, BitVec.and_append, BitVec.and_append, and_ones, BitVec.and_zero, BitVec.and_zero]

/-! ### Every instruction -/

theorem cls : Statement .cls := by unfold Statement; decide
theorem ret : Statement .ret := by unfold Statement; decide
theorem sys (nnn : Addr) : Statement (.sys nnn) := fixed_wordNnn 0x0#4 nnn
theorem jp (nnn : Addr) : Statement (.jp nnn) := fixed_wordNnn 0x1#4 nnn
theorem call (nnn : Addr) : Statement (.call nnn) := fixed_wordNnn 0x2#4 nnn
theorem seVxKk (x : Nibble) (kk : Byte) : Statement (.seVxKk x kk) :=
  (fixed_wordXkk 0x3#4 x kk 0x00#8).trans (by rw [BitVec.and_zero]; rfl)
theorem sneVxKk (x : Nibble) (kk : Byte) : Statement (.sneVxKk x kk) :=
  (fixed_wordXkk 0x4#4 x kk 0x00#8).trans (by rw [BitVec.and_zero]; rfl)
theorem seVxVy (x y : Nibble) : Statement (.seVxVy x y) := fixed_wordXyn 0x5#4 x y 0x0#4 0xF#4
theorem ldVxKk (x : Nibble) (kk : Byte) : Statement (.ldVxKk x kk) :=
  (fixed_wordXkk 0x6#4 x kk 0x00#8).trans (by rw [BitVec.and_zero]; rfl)
theorem addVxKk (x : Nibble) (kk : Byte) : Statement (.addVxKk x kk) :=
  (fixed_wordXkk 0x7#4 x kk 0x00#8).trans (by rw [BitVec.and_zero]; rfl)
theorem ldVxVy (x y : Nibble) : Statement (.ldVxVy x y) := fixed_wordXyn 0x8#4 x y 0x0#4 0xF#4
theorem orVxVy (x y : Nibble) : Statement (.orVxVy x y) := fixed_wordXyn 0x8#4 x y 0x1#4 0xF#4
theorem andVxVy (x y : Nibble) : Statement (.andVxVy x y) := fixed_wordXyn 0x8#4 x y 0x2#4 0xF#4
theorem xorVxVy (x y : Nibble) : Statement (.xorVxVy x y) := fixed_wordXyn 0x8#4 x y 0x3#4 0xF#4
theorem addVxVy (x y : Nibble) : Statement (.addVxVy x y) := fixed_wordXyn 0x8#4 x y 0x4#4 0xF#4
theorem subVxVy (x y : Nibble) : Statement (.subVxVy x y) := fixed_wordXyn 0x8#4 x y 0x5#4 0xF#4
theorem shrVx (x y : Nibble) : Statement (.shrVx x y) := fixed_wordXyn 0x8#4 x y 0x6#4 0xF#4
theorem subnVxVy (x y : Nibble) : Statement (.subnVxVy x y) := fixed_wordXyn 0x8#4 x y 0x7#4 0xF#4
theorem shlVx (x y : Nibble) : Statement (.shlVx x y) := fixed_wordXyn 0x8#4 x y 0xE#4 0xF#4
theorem sneVxVy (x y : Nibble) : Statement (.sneVxVy x y) := fixed_wordXyn 0x9#4 x y 0x0#4 0xF#4
theorem ldINnn (nnn : Addr) : Statement (.ldINnn nnn) := fixed_wordNnn 0xA#4 nnn
theorem jpV0Nnn (nnn : Addr) : Statement (.jpV0Nnn nnn) := fixed_wordNnn 0xB#4 nnn
theorem rndVxKk (x : Nibble) (kk : Byte) : Statement (.rndVxKk x kk) :=
  (fixed_wordXkk 0xC#4 x kk 0x00#8).trans (by rw [BitVec.and_zero]; rfl)
theorem drwVxVyN (x y n : Nibble) : Statement (.drwVxVyN x y n) :=
  (fixed_wordXyn 0xD#4 x y n 0x0#4).trans (by rw [BitVec.and_zero]; rfl)
theorem skpVx (x : Nibble) : Statement (.skpVx x) := fixed_wordXkk 0xE#4 x 0x9E#8 0xFF#8
theorem sknpVx (x : Nibble) : Statement (.sknpVx x) := fixed_wordXkk 0xE#4 x 0xA1#8 0xFF#8
theorem ldVxDt (x : Nibble) : Statement (.ldVxDt x) := fixed_wordXkk 0xF#4 x 0x07#8 0xFF#8
theorem ldVxK (x : Nibble) : Statement (.ldVxK x) := fixed_wordXkk 0xF#4 x 0x0A#8 0xFF#8
theorem ldDtVx (x : Nibble) : Statement (.ldDtVx x) := fixed_wordXkk 0xF#4 x 0x15#8 0xFF#8
theorem ldStVx (x : Nibble) : Statement (.ldStVx x) := fixed_wordXkk 0xF#4 x 0x18#8 0xFF#8
theorem addIVx (x : Nibble) : Statement (.addIVx x) := fixed_wordXkk 0xF#4 x 0x1E#8 0xFF#8
theorem ldFVx (x : Nibble) : Statement (.ldFVx x) := fixed_wordXkk 0xF#4 x 0x29#8 0xFF#8
theorem ldBVx (x : Nibble) : Statement (.ldBVx x) := fixed_wordXkk 0xF#4 x 0x33#8 0xFF#8
theorem ldMemVx (x : Nibble) : Statement (.ldMemVx x) := fixed_wordXkk 0xF#4 x 0x55#8 0xFF#8
theorem ldVxMem (x : Nibble) : Statement (.ldVxMem x) := fixed_wordXkk 0xF#4 x 0x65#8 0xFF#8

end Sys2Proof.Laws.OpcodeRow
end

