-- ==== Sys2Proof/Tests/Slice0.lean ====
section
/-!
SUPPORT. Tests: expected results from the patterns of spec/30_encoding.md and the vectors of spec/95_test_vectors.md (named
in each comment), and for every statement with hypotheses a witness that concrete states and operands meet them.
-/

namespace Sys2Proof.Tests.Slice0

open Sys2Proof.Machine

/-! ### Small states -/

/-- Reset, with PC at `pc`. -/
def atPc (pc : Word) : State := { State.reset with pc := pc }

/-- V1 and V2 set, PC = 0x200. -/
def v12 (a b : Byte) : State := setV 1#4 a (setV 2#4 b State.reset)

/-- V1 and VF set, PC = 0x200. -/
def v1f (a b : Byte) : State := setV 1#4 a (setV 15#4 b State.reset)

/-- I set, PC = 0x200. -/
def withI (a : Addr) : State := setI a State.reset

/-- A word stored at PC of a state. -/
def placed (w : Word) (s : State) : State := s.withFetchWord 16 w.toNat

/-- `sp` entries in use, the newest `w`. -/
def withStack (sp : Fin 17) (w : Word) (s : State) : State :=
  { s with sp := sp, stack := s.stack.setIfInBounds (sp.val - 1) w }

/-- The environment's answers. -/
def answering (keys : BitVec 16) (key : Option Byte) (random : Byte) (s : State) : State :=
  { s with inputs := { keys := keys, keyAnswer := key, random := random, stall := 0 } }

/-- The outcome is a next state of which `p` holds. -/
def nextIs (o : Result) (p : State → Bool) : Bool :=
  match o with
  | .next t    => p t
  | .fault _   => false
  | .refused _ => false

/-- `FAULT(kind, opcode, pc)` of 95_test_vectors, with V, I, MEM, SP, PC and the requests as before. -/
def faults (o : Result) (s : State) (k : FaultKind) (w pc : Word) : Bool :=
  nextIs o fun t => t.fault == { kind := k, opcode := w, pc := pc } && t.run == .halted && t.pc == s.pc && t.v == s.v &&
    t.ireg == s.ireg && t.mem == s.mem && t.sp == s.sp && t.stack == s.stack && t.requests == s.requests

/-! ### WellFormed smoke: a term for each check that it refuses, and its neighbours -/

theorem test_sys_0E0_ill_formed : (Instr.sys 0x0E0#12).wellFormed = false := by decide
theorem test_sys_0EE_ill_formed : (Instr.sys 0x0EE#12).wellFormed = false := by decide
theorem test_sys_neighbours_well_formed :
    (Instr.sys 0x0E1#12).wellFormed = true ∧ (Instr.sys 0x1E0#12).wellFormed = true ∧
    (Instr.sys 0xFFF#12).wellFormed = true := by decide

/-! ### Decode: one word per constructor, written out from its pattern (30_encoding R75; V-ENC-1 to V-ENC-15) -/

theorem test_decode_cls : decodeWord 0x00E0#16 = some .cls := by decide
theorem test_decode_ret : decodeWord 0x00EE#16 = some .ret := by decide
theorem test_decode_sys : decodeWord 0x01E0#16 = some (.sys 0x1E0#12) := by decide
theorem test_decode_jp : decodeWord 0x1ABD#16 = some (.jp 0xABD#12) := by decide
theorem test_decode_call : decodeWord 0x2300#16 = some (.call 0x300#12) := by decide
theorem test_decode_seVxKk : decodeWord 0x3A05#16 = some (.seVxKk 0xA#4 0x05#8) := by decide
theorem test_decode_sneVxKk : decodeWord 0x4A05#16 = some (.sneVxKk 0xA#4 0x05#8) := by decide
theorem test_decode_seVxVy : decodeWord 0x5AB0#16 = some (.seVxVy 0xA#4 0xB#4) := by decide
theorem test_decode_ldVxKk : decodeWord 0x6A05#16 = some (.ldVxKk 0xA#4 0x05#8) := by decide
theorem test_decode_addVxKk : decodeWord 0x7102#16 = some (.addVxKk 0x1#4 0x02#8) := by decide
theorem test_decode_ldVxVy : decodeWord 0x8AB0#16 = some (.ldVxVy 0xA#4 0xB#4) := by decide
theorem test_decode_orVxVy : decodeWord 0x8AB1#16 = some (.orVxVy 0xA#4 0xB#4) := by decide
theorem test_decode_andVxVy : decodeWord 0x8AB2#16 = some (.andVxVy 0xA#4 0xB#4) := by decide
theorem test_decode_xorVxVy : decodeWord 0x8AB3#16 = some (.xorVxVy 0xA#4 0xB#4) := by decide
theorem test_decode_addVxVy : decodeWord 0x8AB4#16 = some (.addVxVy 0xA#4 0xB#4) := by decide
theorem test_decode_subVxVy : decodeWord 0x8AB5#16 = some (.subVxVy 0xA#4 0xB#4) := by decide
theorem test_decode_shrVx : decodeWord 0x8AB6#16 = some (.shrVx 0xA#4 0xB#4) := by decide
theorem test_decode_subnVxVy : decodeWord 0x8AB7#16 = some (.subnVxVy 0xA#4 0xB#4) := by decide
theorem test_decode_shlVx : decodeWord 0x8ABE#16 = some (.shlVx 0xA#4 0xB#4) := by decide
theorem test_decode_sneVxVy : decodeWord 0x9AB0#16 = some (.sneVxVy 0xA#4 0xB#4) := by decide
theorem test_decode_ldINnn : decodeWord 0xA300#16 = some (.ldINnn 0x300#12) := by decide
theorem test_decode_jpV0Nnn : decodeWord 0xBFFE#16 = some (.jpV0Nnn 0xFFE#12) := by decide
theorem test_decode_rndVxKk : decodeWord 0xC10F#16 = some (.rndVxKk 0x1#4 0x0F#8) := by decide
theorem test_decode_drwVxVyN : decodeWord 0xD015#16 = some (.drwVxVyN 0x0#4 0x1#4 0x5#4) := by decide
theorem test_decode_skpVx : decodeWord 0xEF9E#16 = some (.skpVx 0xF#4) := by decide
theorem test_decode_sknpVx : decodeWord 0xE0A1#16 = some (.sknpVx 0x0#4) := by decide
theorem test_decode_ldVxDt : decodeWord 0xF307#16 = some (.ldVxDt 0x3#4) := by decide
theorem test_decode_ldVxK : decodeWord 0xF50A#16 = some (.ldVxK 0x5#4) := by decide
theorem test_decode_ldDtVx : decodeWord 0xF415#16 = some (.ldDtVx 0x4#4) := by decide
theorem test_decode_ldStVx : decodeWord 0xF418#16 = some (.ldStVx 0x4#4) := by decide
theorem test_decode_addIVx : decodeWord 0xFA1E#16 = some (.addIVx 0xA#4) := by decide
theorem test_decode_ldFVx : decodeWord 0xF329#16 = some (.ldFVx 0x3#4) := by decide
theorem test_decode_ldBVx : decodeWord 0xF033#16 = some (.ldBVx 0x0#4) := by decide
theorem test_decode_ldMemVx : decodeWord 0xF255#16 = some (.ldMemVx 0x2#4) := by decide
theorem test_decode_ldVxMem : decodeWord 0xF165#16 = some (.ldVxMem 0x1#4) := by decide

/-- V-ENC-6, 7, 9, 12 and 14. -/
theorem test_malformed_words :
    ([0x5AB1#16, 0x5ABF#16, 0x9AB8#16, 0x8AB8#16, 0x8AB9#16, 0x8ABA#16, 0x8ABB#16, 0x8ABC#16, 0x8ABD#16, 0x8ABF#16] ++
     [0xE000#16, 0xE09F#16, 0xE19D#16, 0xE0A0#16, 0xE0FF#16] ++
     [0xF000#16, 0xF008#16, 0xF01F#16, 0xF030#16, 0xF075#16, 0xF085#16, 0xF0FF#16]).all
      (fun w => decodeWord w == none) = true := by decide

/-- V-ENC-3: words of the no-op space. -/
theorem test_no_op_space :
    ([0x0000#16, 0x00E1#16, 0x01E0#16, 0x0FEE#16, 0x0FFF#16] : List Word).map decodeWord =
      [some (.sys 0x000#12), some (.sys 0x0E1#12), some (.sys 0x1E0#12), some (.sys 0xFEE#12), some (.sys 0xFFF#12)] := by
  decide

/-- V-ENC-16: two bytes in memory make a big-endian word, and the table's numbering gives the same instruction. -/
theorem test_bytes_are_big_endian :
    decodeBytes [0x12#8, 0x34#8] = .ok (.jp 0x234#12, []) ∧ decodeTableWord 16 0x1234 = some (.jp 0x234#12) ∧
    fetchWord (placed 0x1234#16 State.reset) = 0x1234#16 ∧ decodeBytes [0x12#8] = .error .tooFewBytes := by decide

/-! ### One step of each instruction -/

/-- V-PER-1. -/
theorem test_cls : nextIs (execCls { State.reset with display := Vector.replicate 32 0xFF#64 }) (fun t =>
    t.pc == 0x202#16 && t.requests == [.displayClear] && pixelSet t.display (7, 31) == false && getV t 15#4 == 0#8) = true := by
  decide

/-- V-CF-14. -/
theorem test_ret : nextIs (execRet (withStack 1 0x0202#16 (atPc 0x300#16))) (fun t =>
    t.pc == 0x202#16 && t.sp == 0 && t.stack[0] == 0x0202#16) = true := by decide
/-- V-CF-17: the popped 0x1000 is checked. -/
theorem test_ret_checks_popped : faults (execRet (withStack 1 0x1000#16 (atPc 0x300#16)))
    (withStack 1 0x1000#16 (atPc 0x300#16)) .pcOutOfRange 0x00EE#16 0x0300#16 = true := by decide

/-- V-CF-2. -/
theorem test_sys : nextIs (execSys 0x1E0#12 State.reset) (fun t => t.pc == 0x202#16 && t.requests == []) = true := by decide
/-- V-CF-32. -/
theorem test_sys_end_of_memory :
    faults (execSys 0x000#12 (atPc 0xFFE#16)) (atPc 0xFFE#16) .pcOutOfRange 0x0000#16 0x0FFE#16 = true := by decide

/-- V-CF-7. -/
theorem test_jp : nextIs (execJp 0xFFE#12 State.reset) (fun t => t.pc == 0xFFE#16) = true := by decide
/-- V-CF-5 and V-CF-6. -/
theorem test_jp_checks_target :
    faults (execJp 0x201#12 State.reset) State.reset .pcOutOfRange 0x1201#16 0x0200#16 = true ∧
    faults (execJp 0x1FE#12 State.reset) State.reset .pcOutOfRange 0x11FE#16 0x0200#16 = true := by decide

/-- V-CF-10 and V-CF-16: the sixteenth entry, and a return address past the end of memory. -/
theorem test_call :
    nextIs (execCall 0x300#12 (withStack 15 0#16 State.reset)) (fun t =>
      t.pc == 0x300#16 && t.sp == 16 && t.stack[15] == 0x0202#16) = true ∧
    nextIs (execCall 0x300#12 (atPc 0xFFE#16)) (fun t => t.pc == 0x300#16 && t.sp == 1 && t.stack[0] == 0x1000#16) = true := by
  decide
/-- V-CF-12 and V-CF-13: StackOverflow before PcOutOfRange, and nothing pushed by a bad target. -/
theorem test_call_faults :
    faults (execCall 0x301#12 (withStack 16 0#16 State.reset)) (withStack 16 0#16 State.reset)
      .stackOverflow 0x2301#16 0x0200#16 = true ∧
    faults (execCall 0x301#12 State.reset) State.reset .pcOutOfRange 0x2301#16 0x0200#16 = true := by decide

/-- S2. -/
theorem test_seVxKk : nextIs (execSeVxKk 0xA#4 5#8 (setV 0xA#4 5#8 State.reset)) (fun t => t.pc == 0x204#16) = true ∧
    nextIs (execSeVxKk 0xA#4 5#8 (setV 0xA#4 6#8 State.reset)) (fun t => t.pc == 0x202#16) = true := by decide
/-- V-CF-30 and V-CF-31: the check is on the chosen value. -/
theorem test_seVxKk_end_of_memory :
    faults (execSeVxKk 0xA#4 5#8 (setV 0xA#4 5#8 (atPc 0xFFC#16))) (setV 0xA#4 5#8 (atPc 0xFFC#16))
      .pcOutOfRange 0x3A05#16 0x0FFC#16 = true ∧
    nextIs (execSeVxKk 0xA#4 5#8 (setV 0xA#4 6#8 (atPc 0xFFC#16))) (fun t => t.pc == 0xFFE#16) = true := by decide

/-- V-CF-18 and V-CF-19. -/
theorem test_sneVxKk : nextIs (execSneVxKk 0xA#4 5#8 (setV 0xA#4 5#8 State.reset)) (fun t => t.pc == 0x202#16) = true ∧
    nextIs (execSneVxKk 0xA#4 5#8 (setV 0xA#4 6#8 State.reset)) (fun t => t.pc == 0x204#16) = true := by decide

/-- V-CF-20, V-CF-21 and V-CF-22. -/
theorem test_seVxVy : nextIs (execSeVxVy 1#4 2#4 (v12 7#8 7#8)) (fun t => t.pc == 0x204#16) = true ∧
    nextIs (execSeVxVy 1#4 2#4 (v12 7#8 8#8)) (fun t => t.pc == 0x202#16) = true ∧
    nextIs (execSeVxVy 1#4 1#4 (v12 7#8 8#8)) (fun t => t.pc == 0x204#16) = true := by decide

/-- V-CF-23 and V-CF-24. -/
theorem test_sneVxVy : nextIs (execSneVxVy 1#4 2#4 (v12 7#8 8#8)) (fun t => t.pc == 0x204#16) = true ∧
    nextIs (execSneVxVy 1#4 2#4 (v12 7#8 7#8)) (fun t => t.pc == 0x202#16) = true := by decide

/-- V-CF-25, V-CF-28 and V-CF-29: V0 is added, not Vx of the word. -/
theorem test_jpV0Nnn : nextIs (execJpV0Nnn 0x300#12 (setV 0#4 4#8 State.reset)) (fun t => t.pc == 0x304#16) = true ∧
    nextIs (execJpV0Nnn 0x1FE#12 (setV 0#4 2#8 State.reset)) (fun t => t.pc == 0x200#16) = true ∧
    nextIs (execJpV0Nnn 0x300#12 (setV 3#4 9#8 State.reset)) (fun t => t.pc == 0x300#16) = true := by decide
/-- V-CF-26 and V-CF-27: odd, and 0x1000 without a wrap. -/
theorem test_jpV0Nnn_faults :
    faults (execJpV0Nnn 0x300#12 (setV 0#4 5#8 State.reset)) (setV 0#4 5#8 State.reset)
      .pcOutOfRange 0xB300#16 0x0200#16 = true ∧
    faults (execJpV0Nnn 0xFFE#12 (setV 0#4 2#8 State.reset)) (setV 0#4 2#8 State.reset)
      .pcOutOfRange 0xBFFE#16 0x0200#16 = true := by decide

/-- S1 and V-ALU-2. -/
theorem test_ldVxKk : nextIs (execLdVxKk 0xA#4 5#8 State.reset) (fun t => t.pc == 0x202#16 && getV t 0xA#4 == 5#8) = true ∧
    nextIs (execLdVxKk 0xF#4 0xFF#8 State.reset) (fun t => getV t 15#4 == 0xFF#8) = true := by decide
/-- V-ALU-21. -/
theorem test_ldVxKk_end_of_memory :
    faults (execLdVxKk 0xA#4 5#8 (atPc 0xFFE#16)) (atPc 0xFFE#16) .pcOutOfRange 0x6A05#16 0x0FFE#16 = true := by decide

/-- V-ALU-3: wraps, no flag. -/
theorem test_addVxKk : nextIs (execAddVxKk 1#4 2#8 (v1f 0xFF#8 0#8)) (fun t =>
    getV t 1#4 == 1#8 && getV t 15#4 == 0#8) = true := by decide

/-- V-ALU-5. -/
theorem test_ldVxVy : nextIs (execLdVxVy 1#4 2#4 (v12 0#8 0x33#8)) (fun t =>
    getV t 1#4 == 0x33#8 && getV t 2#4 == 0x33#8) = true := by decide

/-- V-ALU-6: VF is not touched. -/
theorem test_orVxVy : nextIs (execOrVxVy 1#4 2#4 (setV 15#4 1#8 (v12 0xF0#8 0x0F#8))) (fun t =>
    getV t 1#4 == 0xFF#8 && getV t 15#4 == 1#8) = true := by decide

/-- V-ALU-7. -/
theorem test_andVxVy : nextIs (execAndVxVy 1#4 2#4 (v12 0xF0#8 0x3C#8)) (fun t => getV t 1#4 == 0x30#8) = true := by decide

/-- V-ALU-8. -/
theorem test_xorVxVy : nextIs (execXorVxVy 1#4 2#4 (v12 0xF0#8 0x3C#8)) (fun t => getV t 1#4 == 0xCC#8) = true ∧
    nextIs (execXorVxVy 1#4 1#4 (v12 0xF0#8 0x3C#8)) (fun t => getV t 1#4 == 0#8) = true := by decide

/-- V-ALU-9, V-ALU-10 and V-ALU-18. -/
theorem test_addVxVy :
    nextIs (execAddVxVy 1#4 2#4 (v12 0xC8#8 0x64#8)) (fun t => getV t 1#4 == 0x2C#8 && getV t 15#4 == 1#8) = true ∧
    nextIs (execAddVxVy 1#4 2#4 (v12 0xFF#8 0#8)) (fun t => getV t 1#4 == 0xFF#8 && getV t 15#4 == 0#8) = true ∧
    nextIs (execAddVxVy 1#4 15#4 (v1f 0x10#8 0xFF#8)) (fun t => getV t 1#4 == 0x0F#8 && getV t 15#4 == 1#8) = true := by decide
/-- V-ALU-14: at x = 15 the result remains. -/
theorem test_addVxVy_into_vf : nextIs (execAddVxVy 15#4 1#4 (v1f 0x64#8 0xC8#8)) (fun t => getV t 15#4 == 0x2C#8) = true := by
  decide

/-- V-ALU-11. -/
theorem test_subVxVy :
    nextIs (execSubVxVy 1#4 2#4 (v12 5#8 7#8)) (fun t => getV t 1#4 == 0xFE#8 && getV t 15#4 == 0#8) = true ∧
    nextIs (execSubVxVy 1#4 2#4 (v12 7#8 7#8)) (fun t => getV t 1#4 == 0#8 && getV t 15#4 == 1#8) = true := by decide
/-- V-ALU-15. -/
theorem test_subVxVy_into_vf : nextIs (execSubVxVy 15#4 1#4 (v1f 7#8 5#8)) (fun t => getV t 15#4 == 0xFE#8) = true := by
  decide

/-- V-ALU-13: V2 is ignored. -/
theorem test_shrVx :
    nextIs (execShrVx 1#4 0#4 (v12 5#8 0#8)) (fun t => getV t 1#4 == 2#8 && getV t 15#4 == 1#8) = true ∧
    nextIs (execShrVx 1#4 2#4 (v12 4#8 0xFF#8)) (fun t => getV t 1#4 == 2#8 && getV t 15#4 == 0#8) = true := by decide
/-- V-ALU-16. -/
theorem test_shrVx_into_vf : nextIs (execShrVx 15#4 0#4 (v1f 0#8 5#8)) (fun t => getV t 15#4 == 2#8) = true := by decide

/-- V-ALU-12. -/
theorem test_subnVxVy :
    nextIs (execSubnVxVy 1#4 2#4 (v12 5#8 7#8)) (fun t => getV t 1#4 == 2#8 && getV t 15#4 == 1#8) = true ∧
    nextIs (execSubnVxVy 1#4 2#4 (v12 7#8 5#8)) (fun t => getV t 1#4 == 0xFE#8 && getV t 15#4 == 0#8) = true := by decide
/-- V-ALU-15, last case. -/
theorem test_subnVxVy_into_vf : nextIs (execSubnVxVy 15#4 1#4 (v1f 7#8 5#8)) (fun t => getV t 15#4 == 2#8) = true := by decide

/-- V-ALU-13, last two cases. -/
theorem test_shlVx :
    nextIs (execShlVx 1#4 0#4 (v12 0x81#8 0#8)) (fun t => getV t 1#4 == 2#8 && getV t 15#4 == 1#8) = true ∧
    nextIs (execShlVx 1#4 0#4 (v12 0x40#8 0#8)) (fun t => getV t 1#4 == 0x80#8 && getV t 15#4 == 0#8) = true := by decide
/-- V-ALU-17. -/
theorem test_shlVx_into_vf : nextIs (execShlVx 15#4 0#4 (v1f 0#8 0x81#8)) (fun t => getV t 15#4 == 2#8) = true := by decide

/-- V-ALU-20. -/
theorem test_rndVxKk :
    nextIs (execRndVxKk 1#4 0x0F#8 (answering 0#16 none 0xB7#8 State.reset)) (fun t =>
      getV t 1#4 == 7#8 && t.requests == [.rngByte]) = true ∧
    nextIs (execRndVxKk 1#4 0x00#8 (answering 0#16 none 0xB7#8 State.reset)) (fun t =>
      getV t 1#4 == 0#8 && t.requests == [.rngByte]) = true := by decide

/-- V-IDX-1. -/
theorem test_ldINnn : nextIs (execLdINnn 0xFFF#12 State.reset) (fun t => t.ireg == 0xFFF#12 && t.pc == 0x202#16) = true := by
  decide

/-- S3 and V-IDX-2. -/
theorem test_addIVx :
    nextIs (execAddIVx 0xA#4 (setV 0xA#4 5#8 (withI 0xFFE#12))) (fun t => t.ireg == 3#12 && getV t 15#4 == 1#8) = true ∧
    nextIs (execAddIVx 0xA#4 (setV 0xA#4 0xFF#8 (withI 0xF00#12))) (fun t =>
      t.ireg == 0xFFF#12 && getV t 15#4 == 0#8) = true := by decide
/-- V-IDX-4: the old VF is the addend. -/
theorem test_addIVx_of_vf : nextIs (execAddIVx 15#4 (setV 15#4 2#8 (withI 0x100#12))) (fun t =>
    t.ireg == 0x102#12 && getV t 15#4 == 0#8) = true := by decide

/-- V-IDX-6. -/
theorem test_ldFVx :
    nextIs (execLdFVx 3#4 (setV 3#4 0x0A#8 State.reset)) (fun t => t.ireg == 0x032#12) = true ∧
    nextIs (execLdFVx 3#4 (setV 3#4 0x0F#8 State.reset)) (fun t => t.ireg == 0x04B#12) = true := by decide
/-- V-IDX-7. -/
theorem test_ldFVx_fault : faults (execLdFVx 3#4 (setV 3#4 0x10#8 State.reset)) (setV 3#4 0x10#8 State.reset)
    .invalidGlyphIndex 0xF329#16 0x0200#16 = true := by decide

/-- V-IDX-10, at the top of memory. -/
theorem test_ldBVx : nextIs (execLdBVx 0#4 (setV 0#4 123#8 (withI 0xFFD#12))) (fun t =>
    memReadBytes t.mem 0xFFC 4 == [0#8, 1#8, 2#8, 3#8] && t.ireg == 0xFFD#12) = true := by decide
/-- V-IDX-11. -/
theorem test_ldBVx_fault :
    faults (execLdBVx 0#4 (withI 0xFFE#12)) (withI 0xFFE#12) .addressOutOfRange 0xF033#16 0x0200#16 = true := by decide

/-- V-IDX-12. -/
theorem test_ldMemVx : nextIs (execLdMemVx 2#4 (setV 0#4 1#8 (setV 1#4 2#8 (setV 2#4 3#8 (setV 3#4 9#8 (withI 0x400#12))))))
    (fun t => memReadBytes t.mem 0x400 4 == [1#8, 2#8, 3#8, 0#8] && t.ireg == 0x400#12) = true := by decide
/-- V-IDX-15 and V-FLT-1: AddressOutOfRange outranks PcOutOfRange. -/
theorem test_ldMemVx_fault :
    faults (execLdMemVx 15#4 (withI 0xFF1#12)) (withI 0xFF1#12) .addressOutOfRange 0xFF55#16 0x0200#16 = true ∧
    faults (execLdMemVx 15#4 (setI 0xFF8#12 (atPc 0xFFE#16))) (setI 0xFF8#12 (atPc 0xFFE#16))
      .addressOutOfRange 0xFF55#16 0x0FFE#16 = true := by decide

/-- V-IDX-16 and V-IDX-18. -/
theorem test_ldVxMem :
    nextIs (execLdVxMem 2#4 (setMem (memWriteBytes [] 0x300 [2#8, 5#8, 4#8]) (setV 3#4 0x77#8 (withI 0x300#12)))) (fun t =>
      getV t 0#4 == 2#8 && getV t 1#4 == 5#8 && getV t 2#4 == 4#8 && getV t 3#4 == 0x77#8 && t.ireg == 0x300#12) = true ∧
    nextIs (execLdVxMem 4#4 State.reset) (fun t =>
      getV t 0#4 == 0xF0#8 && getV t 1#4 == 0x90#8 && getV t 4#4 == 0xF0#8) = true := by decide
/-- V-IDX-17. -/
theorem test_ldVxMem_fault :
    faults (execLdVxMem 1#4 (withI 0xFFF#12)) (withI 0xFFF#12) .addressOutOfRange 0xF165#16 0x0200#16 = true := by decide

/-- V-PER-9 and V-PER-7: the old VF gives both coordinates; one byte is read at the last cell. -/
theorem test_drwVxVyN :
    nextIs (execDrwVxVyN 15#4 15#4 1#4 (setV 15#4 7#8 State.reset)) (fun t =>
      t.requests == [.displayDraw [0xF0#8] 7#8 7#8] && getV t 15#4 == 0#8 && pixelSet t.display (10, 7) &&
      !pixelSet t.display (11, 7)) = true ∧
    nextIs (execDrwVxVyN 0#4 1#4 1#4 (withI 0xFFF#12)) (fun t => t.requests == [.displayDraw [0#8] 0#8 0#8]) = true := by
  decide
/-- V-PER-8 and V-PER-6: out of range no draw is sent; no row is a draw of nothing. -/
theorem test_drwVxVyN_edges :
    faults (execDrwVxVyN 0#4 1#4 2#4 (withI 0xFFF#12)) (withI 0xFFF#12) .addressOutOfRange 0xD012#16 0x0200#16 = true ∧
    nextIs (execDrwVxVyN 0#4 1#4 0#4 (setV 15#4 1#8 (withI 0xFFF#12))) (fun t =>
      t.requests == [.displayDraw [] 0#8 0#8] && getV t 15#4 == 0#8) = true := by decide

/-- V-PER-4: every pixel wraps. -/
theorem test_draw_wraps :
    (drawSprite blankBitmap [0xFF#8, 0xFF#8] 60#8 31#8).1 = false ∧
    pixelSet (drawSprite blankBitmap [0xFF#8, 0xFF#8] 60#8 31#8).2 (63, 31) = true ∧
    pixelSet (drawSprite blankBitmap [0xFF#8, 0xFF#8] 60#8 31#8).2 (3, 0) = true ∧
    pixelSet (drawSprite blankBitmap [0xFF#8, 0xFF#8] 60#8 31#8).2 (4, 0) = false := by decide

/-- V-PER-10. -/
theorem test_skpVx :
    nextIs (execSkpVx 2#4 (setV 2#4 0x0A#8 (answering 0x0400#16 none 0#8 State.reset))) (fun t =>
      t.pc == 0x204#16 && t.requests == [.isPressed 0xA#4]) = true ∧
    nextIs (execSkpVx 2#4 (setV 2#4 0x0A#8 (answering 0xFBFF#16 none 0#8 State.reset))) (fun t => t.pc == 0x202#16) = true := by
  decide
/-- V-PER-12: no query. -/
theorem test_skpVx_fault : faults (execSkpVx 2#4 (setV 2#4 0x10#8 State.reset)) (setV 2#4 0x10#8 State.reset)
    .invalidKeyIndex 0xE29E#16 0x0200#16 = true := by decide

/-- V-PER-11. -/
theorem test_sknpVx :
    nextIs (execSknpVx 2#4 (setV 2#4 0x0A#8 (answering 0x0400#16 none 0#8 State.reset))) (fun t => t.pc == 0x202#16) = true ∧
    nextIs (execSknpVx 2#4 (setV 2#4 0x0A#8 (answering 0xFBFF#16 none 0#8 State.reset))) (fun t => t.pc == 0x204#16) = true := by
  decide
/-- V-PER-12 and V-PER-13: 0x10 faults; key 15 is queried. -/
theorem test_sknpVx_edges :
    faults (execSknpVx 2#4 (setV 2#4 0x10#8 State.reset)) (setV 2#4 0x10#8 State.reset)
      .invalidKeyIndex 0xE2A1#16 0x0200#16 = true ∧
    nextIs (execSknpVx 2#4 (setV 2#4 0x0F#8 (answering 0x8000#16 none 0#8 State.reset))) (fun t =>
      t.pc == 0x202#16 && t.requests == [.isPressed 0xF#4]) = true := by decide

/-- V-PER-17. -/
theorem test_ldVxDt : nextIs (execLdVxDt 3#4 { State.reset with dt := { count := 0x2A#8, setTime := 0, deadline := 128 } })
    (fun t => getV t 3#4 == 0x2A#8 && t.dt.count == 0x2A#8) = true := by decide

/-- V-PER-14 and V-PER-16. -/
theorem test_ldVxK :
    nextIs (execLdVxK 5#4 (answering 0#16 (some 7#8) 0#8 State.reset)) (fun t =>
      getV t 5#4 == 7#8 && t.pc == 0x202#16 && t.run == .running) = true ∧
    nextIs (execLdVxK 5#4 (answering 0#16 none 0#8 State.reset)) (fun t =>
      t.run == .waitKey 5#4 && t.pc == 0x200#16 && t.fault.kind == .none) = true := by decide
/-- V-PER-15. -/
theorem test_ldVxK_fault : nextIs (execLdVxK 5#4 (answering 0#16 (some 0x10#8) 0#8 State.reset)) (fun t =>
    t.run == .halted && t.fault == { kind := .invalidKeyIndex, opcode := 0xF50A#16, pc := 0x0200#16 } &&
    getV t 5#4 == 0#8) = true := by decide

/-- V-PER-18, at cycle time 15. -/
theorem test_ldDtVx : nextIs (execLdDtVx 4#4 (setV 4#4 60#8 { State.reset with now := 15 })) (fun t =>
    t.dt == { count := 60#8, setTime := 15, deadline := 143 } && t.requests == []) = true := by decide

/-- V-PER-20: tone(0) is sent. -/
theorem test_ldStVx : nextIs (execLdStVx 4#4 { State.reset with now := 15 }) (fun t =>
    t.st == { count := 0#8, setTime := 15, deadline := 143 } && t.requests == [.tone 0#8]) = true := by decide
/-- V-PER-21. -/
theorem test_ldStVx_end_of_memory : faults (execLdStVx 4#4 (setV 4#4 30#8 (atPc 0xFFE#16))) (setV 4#4 30#8 (atPc 0xFFE#16))
    .pcOutOfRange 0xF418#16 0x0FFE#16 = true := by decide

/-! ### Timers and the cycle -/

/-- V-TMR-8: after a wait until 1000 the timer drops once in each of the next cycles. -/
theorem test_timer_catches_up :
    checksAt Config.defaultTimeBase [15, 1000, 1000, 1000] (timerSet Config.defaultTimeBase 5#8 0) =
      { count := 2#8, setTime := 0, deadline := 512 } := by decide

/-- V-TMR-5: at 0 the deadline stands. -/
theorem test_timer_stops_at_zero :
    checksAt Config.defaultTimeBase [128, 256, 900] (timerSet Config.defaultTimeBase 1#8 0) =
      { count := 0#8, setTime := 0, deadline := 256 } := by decide

/-- V-TMR-3: Fx07 reads the count after the check of its own cycle (here the cycle of time 135, deadline 128). -/
theorem test_check_precedes_execute :
    nextIs (step (placed 0xF307#16
      { State.reset with cycleDeadline := 135, dt := { count := 9#8, setTime := 0, deadline := 128 } })) (fun t =>
      getV t 3#4 == 8#8 && t.now == 135 && t.cycleDeadline == 150 && t.requests == [.displayCheck, .clockNow]) = true := by
  decide

/-- V-FLT-3 and V-FLT-4: decode outranks the PC check, and the cycle's timer check is kept. -/
theorem test_malformed_step :
    nextIs (step (placed 0x5121#16
      { atPc 0xFFE#16 with cycleDeadline := 135, dt := { count := 9#8, setTime := 0, deadline := 128 } })) (fun t =>
      t.run == .halted && t.fault == { kind := .malformedInstruction, opcode := 0x5121#16, pc := 0x0FFE#16 } &&
      t.dt.count == 8#8) = true := by decide

/-- PRG-4's first cycle: CALL 0x200 placed at reset. -/
theorem test_step_runs_placed_word :
    nextIs (step (State.reset.withFetchWord 16 0x2200)) (fun t =>
      t.pc == 0x200#16 && t.sp == 1 && t.stack[0] == 0x0202#16) = true := by decide

/-! ### Witnesses: the hypotheses of every statement can be met, each clause at a boundary of its range -/

/-- SysOnlyAdvances, LoadImmediate, AddImmediateAndCopy, BitwiseOperations, AddSetsCarry, SubSetsNoBorrow, SubnSetsNoBorrow,
ShiftsMoveOneBitIntoVf, RandomIsMaskedAndDrawnOnce, LoadIndex, AddToIndexSetsOverflow, ClearSendsOneRequest,
ReadDelayTimer (first part), SetDelayTimerFromVx, SetSoundTimerSendsOneTone: the last PC with a legal PC + 2, and the first
without. -/
theorem witness_next_pc :
    PcTarget ((atPc 0xFFC#16).pc.toNat + 2) ∧ PcTarget (State.reset.pc.toNat + 2) ∧
    ¬ PcTarget ((atPc 0xFFE#16).pc.toNat + 2) := by unfold PcTarget; decide

/-- AddSetsCarry, SubSetsNoBorrow, SubnSetsNoBorrow, ShiftsMoveOneBitIntoVf: both an x that is 15 and one that is not. -/
theorem witness_flag_register : (15#4 : Nibble) = 15#4 ∧ (14#4 : Nibble) ≠ 15#4 := by decide

/-- DecodeInvertsEncode. -/
theorem witness_DecodeInvertsEncode :
    (Instr.drwVxVyN 15#4 15#4 15#4).wellFormed = true ∧ (Instr.sys 0x0ED#12).wellFormed = true := by decide

/-- EncodeInvertsDecode. -/
theorem witness_EncodeInvertsDecode :
    decodeWord 0xFFFF#16 = none ∧ decodeWord 0xFF65#16 = some (.ldVxMem 0xF#4) ∧
    decodeWord 0x0000#16 = some (.sys 0x000#12) := by decide

/-- StepRunsTheDecodedInstruction, at the last word of memory. -/
theorem witness_StepRunsTheDecodedInstruction :
    (placed 0x1200#16 (atPc 0xFFE#16)).run = .running ∧ (placed 0x1200#16 (atPc 0xFFE#16)).pc.toNat + 1 ≤ 0xFFF ∧
    decodeWord (wordOfBytes (memRead (placed 0x1200#16 (atPc 0xFFE#16)).mem 0xFFE)
      (memRead (placed 0x1200#16 (atPc 0xFFE#16)).mem 0xFFF)) = some (.jp 0x200#12) := by decide

/-- MalformedWordHaltsTheCore, at the last word of memory and at the last word of the no-op space. -/
theorem witness_MalformedWordHaltsTheCore :
    (placed 0xFFFF#16 (atPc 0xFFE#16)).run = .running ∧ (placed 0xFFFF#16 (atPc 0xFFE#16)).pc.toNat + 1 ≤ 0xFFF ∧
    wordOfBytes (memRead (placed 0xFFFF#16 (atPc 0xFFE#16)).mem 0xFFE)
      (memRead (placed 0xFFFF#16 (atPc 0xFFE#16)).mem 0xFFF) = 0xFFFF#16 ∧
    decodeWord 0xFFFF#16 = none ∧ (0x0FFF#16 : Word).toNat < 0x1000 := by decide

/-- A core halted by MalformedInstruction at 0x200, with a return address on the stack. -/
def haltedState : State :=
  haltedWith .malformedInstruction 0x5121#16 (withStack 1 0x1000#16 (placed 0x5121#16 State.reset))

/-- A core that waits in LD V5, K at the last word of memory. -/
def waitingState : State := setRun (.waitKey 5#4) (placed 0xF50A#16 (atPc 0xFFE#16))

/-- A running core with a full stack at a CALL. -/
def runningState : State :=
  { placed 0x2300#16 State.reset with sp := 16, stack := Vector.replicate 16 0x0202#16 }

/-- HaltedCoreNeverChanges. -/
theorem witness_HaltedCoreNeverChanges : haltedState.run = .halted := by decide

/-- WaitingCoreFreezesEverythingButTheClock: its hypothesis; and, because the answer is a free value, each answer's case
through the operation that the step applies to it. -/
theorem witness_WaitingCoreFreezesEverythingButTheClock :
    waitingState.run = .waitKey 5#4 ∧
    (awaitKey 5#4 (answering 0#16 none 0#8 waitingState)).run = .waitKey 5#4 ∧
    (awaitKey 5#4 (answering 0#16 (some 15#8) 0#8 { waitingState with pc := 0xFFC#16 })).run = .running ∧
    (awaitKey 5#4 (answering 0#16 (some 16#8) 0#8 waitingState)).fault.kind = .invalidKeyIndex ∧
    (awaitKey 5#4 (answering 0#16 (some 15#8) 0#8 waitingState)).fault.kind = .pcOutOfRange := by decide

/-- InvariantKeptByEveryStep, InvariantStatesAlwaysStep: a running, a waiting and a halted state. -/
theorem witness_Inv_running : Inv runningState :=
  { memory := by decide, pc := by unfold PcTarget; decide, stack := by unfold ReturnAddress; decide, fault := by decide,
    record := by decide, waiting := by intro x h; cases h }
theorem witness_Inv_waiting : Inv waitingState :=
  { memory := by decide, pc := by unfold PcTarget; decide, stack := by unfold ReturnAddress; decide, fault := by decide,
    record := by decide, waiting := by intro x h; cases h; decide }
theorem witness_Inv_halted : Inv haltedState :=
  { memory := by decide, pc := by unfold PcTarget; decide, stack := by unfold ReturnAddress; decide, fault := by decide,
    record := by decide, waiting := by intro x h; cases h }
theorem witness_Inv_steps : (∃ t, step runningState = .next t) ∧ (∃ t, step waitingState = .next t) ∧
    (∃ t, step haltedState = .next t) := ⟨⟨_, rfl⟩, ⟨_, rfl⟩, ⟨_, rfl⟩⟩

/-- RetPopsIntoPc: the highest and the lowest entry, a legal and an illegal value. -/
theorem witness_RetPopsIntoPc :
    (withStack 16 0xFFE#16 State.reset).sp.val = (15 : Fin 16).val + 1 ∧
    PcTarget (withStack 16 0xFFE#16 State.reset).stack[(15 : Fin 16)].toNat ∧
    (withStack 1 0x1000#16 State.reset).sp.val = (0 : Fin 16).val + 1 ∧
    ¬ PcTarget (withStack 1 0x1000#16 State.reset).stack[(0 : Fin 16)].toNat := by unfold PcTarget; decide

/-- JpSetsPc and CallPushesAndJumps: the ends of the PC range, and the values next to them; the first and the last entry. -/
theorem witness_JpSetsPc_CallPushesAndJumps :
    PcTarget (0x200#12 : Addr).toNat ∧ PcTarget (0xFFE#12 : Addr).toNat ∧ ¬ PcTarget (0x1FE#12 : Addr).toNat ∧
    ¬ PcTarget (0xFFF#12 : Addr).toNat ∧ State.reset.sp.val = (0 : Fin 16).val ∧
    (withStack 15 0x202#16 State.reset).sp.val = (15 : Fin 16).val := by unfold PcTarget; decide

/-- SkipIfEqualImmediate, SkipIfNotEqualImmediate: at 0xFFC the skip is out of range and the fall-through is not. -/
theorem witness_SkipIfEqualImmediate_SkipIfNotEqualImmediate :
    (getV (atPc 0xFFC#16) 1#4).toNat = (0#8 : Byte).toNat ∧ (getV (atPc 0xFFC#16) 1#4).toNat ≠ (1#8 : Byte).toNat ∧
    ¬ PcTarget ((atPc 0xFFC#16).pc.toNat + 4) ∧ PcTarget ((atPc 0xFFC#16).pc.toNat + 2) ∧
    PcTarget ((atPc 0xFFA#16).pc.toNat + 4) := by unfold PcTarget; decide

/-- SkipsOnTwoRegisters: equal and different registers. -/
theorem witness_SkipsOnTwoRegisters :
    (getV (v12 7#8 7#8) 1#4).toNat = (getV (v12 7#8 7#8) 2#4).toNat ∧
    (getV (v12 7#8 8#8) 1#4).toNat ≠ (getV (v12 7#8 8#8) 2#4).toNat ∧ PcTarget ((v12 7#8 7#8).pc.toNat + 4) ∧
    ¬ PcTarget ((atPc 0xFFE#16).pc.toNat + 2) := by unfold PcTarget; decide

/-- JpV0AddsV0: the sums 0xFFE and 0x1000. -/
theorem witness_JpV0AddsV0 :
    PcTarget ((0xF00#12 : Addr).toNat + (getV (setV 0#4 0xFE#8 State.reset) 0#4).toNat) ∧
    ¬ PcTarget ((0xFFE#12 : Addr).toNat + (getV (setV 0#4 2#8 State.reset) 0#4).toNat) := by unfold PcTarget; decide

/-- LoadGlyphAddress and KeyAndGlyphIndexFaults: 15 and 16. -/
theorem witness_LoadGlyphAddress_KeyAndGlyphIndexFaults :
    (getV (v12 15#8 16#8) 1#4).toNat ≤ 15 ∧ 15 < (getV (v12 15#8 16#8) 2#4).toNat ∧
    PcTarget ((v12 15#8 16#8).pc.toNat + 2) ∧ ¬ PcTarget ((setV 1#4 15#8 (atPc 0xFFE#16)).pc.toNat + 2) ∧
    (getV (setV 1#4 15#8 (atPc 0xFFE#16)) 1#4).toNat ≤ 15 := by unfold PcTarget; decide

/-- StoreDecimalDigits: I + 2 = 0xFFF and 0x1000, PC in and out of range. -/
theorem witness_StoreDecimalDigits :
    effAddr (withI 0xFFD#12) 2 ≤ 0xFFF ∧ PcTarget ((withI 0xFFD#12).pc.toNat + 2) ∧
    Memory.wf (withI 0xFFD#12).mem = true ∧ 0xFFF < effAddr (withI 0xFFE#12) 2 ∧
    effAddr (setI 0xFFD#12 (atPc 0xFFE#16)) 2 ≤ 0xFFF ∧ ¬ PcTarget ((setI 0xFFD#12 (atPc 0xFFE#16)).pc.toNat + 2) := by
  unfold PcTarget; decide

/-- StoreRegisterBlock and LoadRegisterBlock: I + x = 0xFFF and 0x1000, PC in and out of range, memory with a cell listed. -/
theorem witness_StoreRegisterBlock_LoadRegisterBlock :
    effAddr (withI 0xFF0#12) (15#4 : Nibble).toNat ≤ 0xFFF ∧ PcTarget ((withI 0xFF0#12).pc.toNat + 2) ∧
    Memory.wf (setMem [(0xFFF, 1#8)] (withI 0xFF0#12)).mem = true ∧ 0xFFF < effAddr (withI 0xFF1#12) (15#4 : Nibble).toNat ∧
    effAddr (setI 0xFFF#12 (atPc 0xFFE#16)) (0#4 : Nibble).toNat ≤ 0xFFF ∧
    ¬ PcTarget ((setI 0xFFF#12 (atPc 0xFFE#16)).pc.toNat + 2) := by unfold PcTarget; decide

/-- DrawPassesSpriteAndSetsCollision and AddressFaultsTouchNothing: I + n - 1 = 0xFFF and 0x1000, and n = 0. -/
theorem witness_DrawPassesSpriteAndSetsCollision_AddressFaultsTouchNothing :
    (0 < (15#4 : Nibble).toNat → effAddr (withI 0xFF1#12) ((15#4 : Nibble).toNat - 1) ≤ 0xFFF) ∧
    (0 < (0#4 : Nibble).toNat → effAddr (withI 0xFFF#12) ((0#4 : Nibble).toNat - 1) ≤ 0xFFF) ∧
    PcTarget ((withI 0xFF1#12).pc.toNat + 2) ∧ ¬ PcTarget ((setI 0xFF1#12 (atPc 0xFFE#16)).pc.toNat + 2) ∧
    0 < (15#4 : Nibble).toNat ∧ 0xFFF < effAddr (withI 0xFF2#12) ((15#4 : Nibble).toNat - 1) ∧
    0xFFF < effAddr (withI 0xFFE#12) 2 ∧ 0xFFF < effAddr (withI 0xFFF#12) (1#4 : Nibble).toNat := by
  unfold PcTarget; decide

/-- KeySkipsFollowTheAnswer: key 15 pressed and not pressed, targets in and out of range. -/
theorem witness_KeySkipsFollowTheAnswer :
    (getV (setV 2#4 15#8 State.reset) 2#4).toNat = (15#4 : Nibble).toNat ∧
    (answering 0x8000#16 none 0#8 State.reset).inputs.keys.getLsbD (15#4 : Nibble).toNat = true ∧
    (answering 0x7FFF#16 none 0#8 State.reset).inputs.keys.getLsbD (15#4 : Nibble).toNat = false ∧
    PcTarget ((atPc 0xFFA#16).pc.toNat + 4) ∧ PcTarget ((atPc 0xFFC#16).pc.toNat + 2) ∧
    ¬ PcTarget ((atPc 0xFFC#16).pc.toNat + 4) := by unfold PcTarget; decide

/-- ReadDelayTimer, second part. -/
theorem witness_ReadDelayTimer :
    (placed 0xF307#16 State.reset).run = .running ∧ (placed 0xF307#16 State.reset).pc.toNat + 1 ≤ 0xFFF ∧
    PcTarget ((placed 0xF307#16 State.reset).pc.toNat + 2) ∧
    wordOfBytes (memRead (placed 0xF307#16 State.reset).mem 0x200) (memRead (placed 0xF307#16 State.reset).mem 0x201) =
      wordXkk 0xF#4 3#4 0x07#8 := by unfold PcTarget; decide

/-- KeyWaitStoresTheAnswer: no answer, the answers 15 and 16, PC in and out of range. -/
theorem witness_KeyWaitStoresTheAnswer :
    (answering 0#16 (some 15#8) 0#8 State.reset).inputs.keyAnswer = some 15#8 ∧ (15#8 : Byte).toNat ≤ 15 ∧
    PcTarget ((answering 0#16 (some 15#8) 0#8 State.reset).pc.toNat + 2) ∧
    (answering 0#16 none 0#8 State.reset).inputs.keyAnswer = none ∧
    (answering 0#16 (some 16#8) 0#8 State.reset).inputs.keyAnswer = some 16#8 ∧ 15 < (16#8 : Byte).toNat ∧
    ¬ PcTarget ((answering 0#16 (some 15#8) 0#8 (atPc 0xFFE#16)).pc.toNat + 2) := by unfold PcTarget; decide

/-- StackFaultsPushAndPopNothing. -/
theorem witness_StackFaultsPushAndPopNothing :
    (withStack 16 0x202#16 State.reset).sp.val = 16 ∧ State.reset.sp.val = 0 := by decide

/-- FaultsArePrecise: an instruction that halts a running core. -/
theorem witness_FaultsArePrecise :
    State.reset.run = .running ∧ nextIs (exec .ret State.reset) (fun t => t.run == .halted) = true := by decide

/-- OnlyDestinationRegistersChange, InputsReachOnlyFourInstructions: instructions outside each list. -/
theorem witness_OnlyDestinationRegistersChange_InputsReachOnlyFourInstructions :
    (∃ t, exec (.addVxVy 1#4 2#4) State.reset = .next t) ∧ ¬ mayWriteV (.addVxVy 1#4 2#4) 14#4 ∧
    ¬ mayWriteV (.ldVxMem 14#4) 15#4 ∧ ¬ readsInputs (.addVxVy 1#4 2#4) := by
  refine ⟨⟨_, rfl⟩, ?_, ?_, ?_⟩
  · unfold mayWriteV; decide
  · unfold mayWriteV; decide
  · exact fun h => h

/-- OnlyIndexInstructionsChangeI, OnlyStoresChangeMemory, OnlyCallAndRetChangeTheStack, OnlyTimerInstructionsSetTimers: one
instruction, SYS 0, is in none of the lists; RET is the case of the stack statement that may move SP. -/
theorem witness_Only :
    (∃ t, exec (.sys 0#12) State.reset = .next t) ∧ (∀ nnn, Instr.sys 0#12 ≠ .ldINnn nnn) ∧
    (∀ x, Instr.sys 0#12 ≠ .addIVx x) ∧ (∀ x, Instr.sys 0#12 ≠ .ldFVx x) ∧ (∀ x, Instr.sys 0#12 ≠ .ldBVx x) ∧
    (∀ x, Instr.sys 0#12 ≠ .ldMemVx x) ∧ (∀ nnn, Instr.sys 0#12 ≠ .call nnn) ∧ Instr.sys 0#12 ≠ .ret ∧
    (∀ x, Instr.sys 0#12 ≠ .ldDtVx x) ∧ (∀ x, Instr.sys 0#12 ≠ .ldStVx x) := by
  refine ⟨⟨_, rfl⟩, ?_, ?_, ?_, ?_, ?_, ?_, ?_, ?_, ?_⟩ <;> intros <;> exact fun h => Instr.noConfusion h

/-- TimerCheckDropsAtMostOne: exactly at the deadline, one unit before it, and at count 0. -/
theorem witness_TimerCheckDropsAtMostOne :
    0 < (timerSet Config.defaultTimeBase 1#8 0).count.toNat ∧ (timerSet Config.defaultTimeBase 1#8 0).deadline ≤ 128 ∧
    127 < (timerSet Config.defaultTimeBase 1#8 0).deadline ∧ (timerSet Config.defaultTimeBase 0#8 0).count.toNat = 0 := by
  decide

/-- TimerDropsOncePerTick: checks at 15, 30 and exactly one tick later. -/
theorem witness_TimerDropsOncePerTick :
    0 < Config.defaultTimeBase.pTick ∧ SpacedBy Config.defaultTimeBase.pTick 0 [15, 30, 158] := by
  unfold SpacedBy SpacedBy SpacedBy SpacedBy; decide

/-- RateIsFixedAndTimeNeverGoesBack. -/
theorem witness_RateIsFixedAndTimeNeverGoesBack : ∃ t, step State.reset = .next t := ⟨_, rfl⟩

/-- CallThenReturnComesBack: the last free entry. -/
theorem witness_CallThenReturnComesBack :
    (withStack 15 0x202#16 (atPc 0xFFC#16)).sp.val < 16 ∧ PcTarget (0xFFE#12 : Addr).toNat ∧
    PcTarget ((withStack 15 0x202#16 (atPc 0xFFC#16)).pc.toNat + 2) := by unfold PcTarget; decide

/-- StoreThenLoadRestoresRegisters: sixteen registers at the top of memory. -/
theorem witness_StoreThenLoadRestoresRegisters :
    effAddr (setI 0xFF0#12 (atPc 0xFFA#16)) (15#4 : Nibble).toNat ≤ 0xFFF ∧
    PcTarget ((setI 0xFF0#12 (atPc 0xFFA#16)).pc.toNat + 2) ∧ PcTarget ((setI 0xFF0#12 (atPc 0xFFA#16)).pc.toNat + 4) ∧
    Memory.wf (setI 0xFF0#12 (atPc 0xFFA#16)).mem = true := by unfold PcTarget; decide

/-- StoreIsSeenByTheNextFetch: the last word of memory. -/
theorem witness_StoreIsSeenByTheNextFetch :
    1 ≤ (1#4 : Nibble).toNat ∧ effAddr (setI 0xFFE#12 (atPc 0xFFC#16)) 0 = (setI 0xFFE#12 (atPc 0xFFC#16)).pc.toNat + 2 ∧
    effAddr (setI 0xFFE#12 (atPc 0xFFC#16)) (1#4 : Nibble).toNat ≤ 0xFFF ∧
    PcTarget ((setI 0xFFE#12 (atPc 0xFFC#16)).pc.toNat + 2) ∧ Memory.wf (setI 0xFFE#12 (atPc 0xFFC#16)).mem = true := by
  unfold PcTarget; decide

/-- DrawCollidesExactlyOnSetPixels: fifteen rows, and a targeted pixel. -/
theorem witness_DrawCollidesExactlyOnSetPixels :
    (List.replicate 15 0xFF#8).length ≤ 15 ∧ Targets [0x01#8] 60#8 31#8 (3, 31) := by
  refine ⟨by decide, 0, 7, by decide, by decide, by decide, by decide, by decide⟩

/-- BootLoadsTheRomOrRefuses (V-FLT-5): 3584 bytes are accepted and 3585 are not. -/
theorem witness_BootLoadsTheRomOrRefuses :
    bootAccepts (List.replicate 3584 0xAA#8) Config.defaultTimeBase = true ∧
    bootAccepts (List.replicate 3585 0xAA#8) Config.defaultTimeBase = false ∧
    bootAccepts [] { pCycle := 0, pTick := 128 } = false := by
  refine ⟨?_, ?_, by decide⟩
  · rw [bootAccepts, List.length_replicate]; decide
  · rw [bootAccepts, List.length_replicate]; decide

/-- BootLoadsTheRomOrRefuses, cell by cell at the ends of its ranges, with a font that is not the spec's. -/
theorem test_boot_cells :
    ((boot (Vector.replicate 80 0xAB#8) [0x12#8, 0x34#8] Config.defaultTimeBase 7).map fun s =>
      (fetchWord s, [0x000, 0x04F, 0x050, 0x1FF, 0x202, 0xFFF].map (memRead s.mem), s.st.setTime)) =
      some (0x1234#16, [0xAB#8, 0xAB#8, 0x00#8, 0x00#8, 0x00#8, 0x00#8], 7) := by decide

end Sys2Proof.Tests.Slice0
end

section
/-!
PROOFS. Control flow: an instruction that writes nothing but PC, and the conditional skip SE Vx, kk.
-/

namespace Sys2Proof.Machine

/-! ### The template for an instruction that writes only PC (30_encoding R83, R84) -/

/-- The next state is given as a `Result`, so that the statements about `exec` are instances of this lemma. -/
theorem next_commit_id_of_valid (w : Word) (t : Nat) (s : State) (h : PcTarget t) :
    ∃ u, (.next (commit w t id s) : Result) = .next u ∧ u.pc.toNat = t ∧ u = { s with pc := u.pc } := by
  rw [commit_of_valid w t id s h]
  exact ⟨setPc t s, rfl, setPc_toNat t s h, rfl⟩

theorem next_commit_id_of_invalid (w : Word) (t : Nat) (s : State) (h : ¬ PcTarget t) :
    (.next (commit w t id s) : Result) = .next (haltedWith .pcOutOfRange w s) := by
  rw [commit_of_invalid w t id s h, raise_eq_haltedWith]

/-! ### SE Vx, kk (R104) -/

theorem decodeWord_seVxKk (x : Nibble) (kk : Byte) : decodeWord (wordXkk 0x3#4 x kk) = some (.seVxKk x kk) := by
  simp [decodeWord]

/-- SE Vx, kk is one PC write, its target chosen by comparing the 8-bit values as unsigned numbers. -/
theorem exec_seVxKk (x : Nibble) (kk : Byte) (s : State) :
    exec (.seVxKk x kk) s = .next (commit (encode (.seVxKk x kk))
      (s.pc.toNat + if (getV s x).toNat = kk.toNat then 4 else 2) id s) := by
  have hskip : exec (.seVxKk x kk) s = .next (skipIf (encode (.seVxKk x kk)) (getV s x == kk) s) := rfl
  rw [hskip, skipIf_eq]
  simp only [beq_iff_eq, BitVec.toNat_inj]

/-- Settles O16: SE Vx, kk is a `commit` at the chosen target, so the check of that target decides the outcome. -/
theorem skipIfEqualImmediate : Obligations.SkipIfEqualImmediate := by
  unfold Obligations.SkipIfEqualImmediate
  intro x kk s target
  refine ⟨decodeWord_seVxKk x kk, ?_⟩
  rintro rfl
  rw [exec_seVxKk]
  exact ⟨next_commit_id_of_valid _ _ s, next_commit_id_of_invalid _ _ s⟩

end Sys2Proof.Machine
end

section
/-!
PROOFS. Register load, bitwise logic and addition with carry: instructions that write registers and advance PC by 2.
-/

namespace Sys2Proof.Machine

/-! ### The template for an instruction that writes only registers and PC (30_encoding R82 to R84) -/

theorem next_advance_of_invalid (w : Word) (f : State → State) (s : State) (h : ¬ PcTarget (s.pc.toNat + 2)) :
    (.next (advance w f s) : Result) = .next (haltedWith .pcOutOfRange w s) := by
  rw [advance_of_invalid w f s h, raise_eq_haltedWith]

/-- Writes that touch only the registers: the next state reads as the written one and all but `v` and `pc` is as before. -/
theorem next_advance_of_valid (w : Word) (f : State → State) (s : State) (hf : f s = { s with v := (f s).v })
    (h : PcTarget (s.pc.toNat + 2)) :
    ∃ t, (.next (advance w f s) : Result) = .next t ∧ (∀ r, getV t r = getV (f s) r) ∧
      t.pc.toNat = s.pc.toNat + 2 ∧ t = { s with v := t.v, pc := t.pc } := by
  rw [advance_of_valid w f s h]
  refine ⟨setPc (s.pc.toNat + 2) (f s), rfl, fun r => rfl, setPc_toNat _ _ h, ?_⟩
  rw [hf]
  rfl

/-- One register write (R21). -/
theorem next_advance_setV_of_valid (w : Word) (x : Nibble) (b : Byte) (s : State) (h : PcTarget (s.pc.toNat + 2)) :
    ∃ t, (.next (advance w (setV x b) s) : Result) = .next t ∧ (∀ r, getV t r = if r = x then b else getV s r) ∧
      t.pc.toNat = s.pc.toNat + 2 ∧ t = { s with v := t.v, pc := t.pc } := by
  simpa only [getV_setV] using next_advance_of_valid w (setV x b) s rfl h

/-- One register write whose byte is known bit by bit. -/
theorem next_advance_setV_bits_of_valid (w : Word) (x : Nibble) (b : Byte) (s : State) {bit : Nat → Bool}
    (hbit : ∀ k, k < 8 → b.getLsbD k = bit k) (h : PcTarget (s.pc.toNat + 2)) :
    ∃ t, (.next (advance w (setV x b) s) : Result) = .next t ∧ (∀ k, k < 8 → (getV t x).getLsbD k = bit k) ∧
      (∀ r, r ≠ x → getV t r = getV s r) ∧ t.pc.toNat = s.pc.toNat + 2 ∧ t = { s with v := t.v, pc := t.pc } := by
  obtain ⟨t, ht, hv, hpc, hframe⟩ := next_advance_setV_of_valid w x b s h
  have hx : getV t x = b := by rw [hv, if_pos rfl]
  exact ⟨t, ht, by rwa [hx], fun r hr => by rw [hv, if_neg hr], hpc, hframe⟩

/-- The flag, then the result (R133): at x = 15 the result remains, at any other x VF holds the flag. -/
theorem next_advance_writeFlagThenResult_of_valid (w : Word) (x : Nibble) (flag b : Byte) (s : State)
    (h : PcTarget (s.pc.toNat + 2)) :
    ∃ t, (.next (advance w (writeFlagThenResult x flag b) s) : Result) = .next t ∧ getV t x = b ∧
      (x ≠ 15#4 → getV t 15#4 = flag) ∧ (∀ r, r ≠ x → r ≠ 15#4 → getV t r = getV s r) ∧
      t.pc.toNat = s.pc.toNat + 2 ∧ t = { s with v := t.v, pc := t.pc } := by
  obtain ⟨t, ht, hv, hpc, hframe⟩ := next_advance_of_valid w (writeFlagThenResult x flag b) s rfl h
  simp only [getV_writeFlagThenResult] at hv
  refine ⟨t, ht, ?result, ?flag, ?others, hpc, hframe⟩
  case result => rw [hv, if_pos rfl]
  case flag => intro hx; rw [hv, if_neg hx.symm, if_pos rfl]
  case others => intro r hrx hrf; rw [hv, if_neg hrx, if_neg hrf]

/-! ### LD Vx, kk (R120) -/

theorem decodeWord_ldVxKk (x : Nibble) (kk : Byte) : decodeWord (wordXkk 0x6#4 x kk) = some (.ldVxKk x kk) := by
  simp [decodeWord]

theorem exec_ldVxKk (x : Nibble) (kk : Byte) (s : State) :
    exec (.ldVxKk x kk) s = .next (advance (encode (.ldVxKk x kk)) (setV x kk) s) := rfl

/-- Settles O20: LD Vx, kk advances with one register write. -/
theorem loadImmediate : Obligations.LoadImmediate := by
  unfold Obligations.LoadImmediate
  intro x kk s
  rw [exec_ldVxKk]
  exact ⟨decodeWord_ldVxKk x kk, next_advance_setV_of_valid _ x kk s, next_advance_of_invalid _ _ s⟩

/-! ### OR, AND and XOR (R123 to R125) -/

theorem decodeWord_orVxVy (x y : Nibble) : decodeWord (wordXyn 0x8#4 x y 0x1#4) = some (.orVxVy x y) := by
  simp [decodeWord, decodeFamily8]

theorem decodeWord_andVxVy (x y : Nibble) : decodeWord (wordXyn 0x8#4 x y 0x2#4) = some (.andVxVy x y) := by
  simp [decodeWord, decodeFamily8]

theorem decodeWord_xorVxVy (x y : Nibble) : decodeWord (wordXyn 0x8#4 x y 0x3#4) = some (.xorVxVy x y) := by
  simp [decodeWord, decodeFamily8]

theorem exec_orVxVy (x y : Nibble) (s : State) :
    exec (.orVxVy x y) s = .next (advance (encode (.orVxVy x y)) (setV x (getV s x ||| getV s y)) s) := rfl

theorem exec_andVxVy (x y : Nibble) (s : State) :
    exec (.andVxVy x y) s = .next (advance (encode (.andVxVy x y)) (setV x (getV s x &&& getV s y)) s) := rfl

theorem exec_xorVxVy (x y : Nibble) (s : State) :
    exec (.xorVxVy x y) s = .next (advance (encode (.xorVxVy x y)) (setV x (getV s x ^^^ getV s y)) s) := rfl

/-- Settles O22: each of the three advances with one register write, whose byte the bit vector library gives bit by bit. -/
theorem bitwiseOperations : Obligations.BitwiseOperations := by
  unfold Obligations.BitwiseOperations
  intro x y s
  rw [exec_orVxVy, exec_andVxVy, exec_xorVxVy]
  refine ⟨⟨decodeWord_orVxVy x y, decodeWord_andVxVy x y, decodeWord_xorVxVy x y⟩, fun h => ⟨?or, ?and, ?xor⟩,
    fun h => ⟨next_advance_of_invalid _ _ s h, next_advance_of_invalid _ _ s h, next_advance_of_invalid _ _ s h⟩⟩
  case or => exact next_advance_setV_bits_of_valid _ x _ s (fun _ _ => BitVec.getLsbD_or) h
  case and => exact next_advance_setV_bits_of_valid _ x _ s (fun _ _ => BitVec.getLsbD_and) h
  case xor => exact next_advance_setV_bits_of_valid _ x _ s (fun _ _ => BitVec.getLsbD_xor) h

/-! ### ADD Vx, Vy (R126) -/

theorem decodeWord_addVxVy (x y : Nibble) : decodeWord (wordXyn 0x8#4 x y 0x4#4) = some (.addVxVy x y) := by
  simp [decodeWord, decodeFamily8]

theorem exec_addVxVy (x y : Nibble) (s : State) :
    exec (.addVxVy x y) s = .next (advance (encode (.addVxVy x y))
      (writeFlagThenResult x (carryFlag (getV s x) (getV s y)) (getV s x + getV s y)) s) := rfl

theorem carryFlag_toNat (a b : Byte) : (carryFlag a b).toNat = if 255 < a.toNat + b.toNat then 1 else 0 := by
  simp only [carryFlag, flagByte_toNat, decide_eq_true_eq]

/-- Settles O23: flag and result are both computed from the old registers, then written in that order. -/
theorem addSetsCarry : Obligations.AddSetsCarry := by
  unfold Obligations.AddSetsCarry
  intro x y s
  rw [exec_addVxVy]
  refine ⟨decodeWord_addVxVy x y, fun h => ?_, next_advance_of_invalid _ _ s⟩
  obtain ⟨t, ht, hresult, hflag, hothers, hpc, hframe⟩ := next_advance_writeFlagThenResult_of_valid
    (encode (.addVxVy x y)) x (carryFlag (getV s x) (getV s y)) (getV s x + getV s y) s h
  refine ⟨t, ht, ?sum, ?carry, hothers, hpc, hframe⟩
  case sum => rw [hresult, BitVec.toNat_add]
  case carry => intro hx; rw [hflag hx, carryFlag_toNat]

end Sys2Proof.Machine
end

section
/-!
PROOFS. Index register, stores and loads: ADD I, Vx, and the three instructions that check their largest address first.
-/

namespace Sys2Proof.Machine

/-! ### Decoding -/

theorem decodeWord_addIVx (x : Nibble) : decodeWord (wordXkk 0xF#4 x 0x1E#8) = some (.addIVx x) := by
  simp [decodeWord, decodeFamilyF]

theorem decodeWord_ldBVx (x : Nibble) : decodeWord (wordXkk 0xF#4 x 0x33#8) = some (.ldBVx x) := by
  simp [decodeWord, decodeFamilyF]

theorem decodeWord_ldMemVx (x : Nibble) : decodeWord (wordXkk 0xF#4 x 0x55#8) = some (.ldMemVx x) := by
  simp [decodeWord, decodeFamilyF]

theorem decodeWord_ldVxMem (x : Nibble) : decodeWord (wordXkk 0xF#4 x 0x65#8) = some (.ldVxMem x) := by
  simp [decodeWord, decodeFamilyF]

/-! ### The template for an instruction that checks an address, then advances (20_memory R55, 30_encoding R84) -/

theorem guarded_addrValid_of_inside (w : Word) {a : Nat} (body : State → State) (s : State) (h : a ≤ 0xFFF) :
    guarded (addrValid a) .addressOutOfRange w body s = body s := by
  rw [(addrValid_iff a).mpr h, guarded_true]

theorem next_guarded_addrValid_of_outside (w : Word) {a : Nat} (body : State → State) (s : State) (h : 0xFFF < a) :
    (.next (guarded (addrValid a) .addressOutOfRange w body s) : Result) =
      .next (haltedWith .addressOutOfRange w s) := by
  have hbad : addrValid a = false := by
    rw [Bool.eq_false_iff, ne_eq, addrValid_iff]
    omega
  rw [hbad, guarded_false, raise_eq_haltedWith]

/-- The address check passes, so the check of the next PC decides (R190: it comes last). -/
theorem next_guarded_advance_of_invalid (w : Word) {a : Nat} (f : State → State) (s : State) (ha : a ≤ 0xFFF)
    (h : ¬ PcTarget (s.pc.toNat + 2)) :
    (.next (guarded (addrValid a) .addressOutOfRange w (advance w f) s) : Result) = .next (haltedWith .pcOutOfRange w s) := by
  rw [guarded_addrValid_of_inside w _ s ha, next_advance_of_invalid w f s h]

/-- A block of bytes stored at I and up: each byte at its own address, every cell outside the block as before. -/
theorem next_guarded_store_of_valid (w : Word) (bs : List Byte) (last : Nat) (s : State)
    (hlen : bs.length = last + 1) (ha : effAddr s last ≤ 0xFFF) (h : PcTarget (s.pc.toNat + 2))
    (hwf : Memory.wf s.mem = true) :
    ∃ t, (.next (guarded (addrValid (effAddr s last)) .addressOutOfRange w
        (advance w (setMem (memWriteBytes s.mem (effAddr s 0) bs))) s) : Result) = .next t ∧
      (∀ j, j ≤ last → memRead t.mem (effAddr s j) = bs.getD j 0#8) ∧
      (∀ a, a < effAddr s 0 ∨ effAddr s last < a → memRead t.mem a = memRead s.mem a) ∧
      t.pc.toNat = s.pc.toNat + 2 ∧ t = { s with mem := t.mem, pc := t.pc } := by
  rw [guarded_addrValid_of_inside w _ s ha, advance_of_valid w _ s h]
  simp only [effAddr, Nat.add_zero] at ha ⊢
  refine ⟨_, rfl, ?inside, ?outside, setPc_toNat _ _ h, rfl⟩
  case inside =>
    intro j hj
    exact memRead_memWriteBytes_inside s.mem _ j bs (by omega) (by omega) hwf
  case outside =>
    intro a hout
    exact memRead_memWriteBytes_outside s.mem _ a bs (by omega)

/-! ### LD B, Vx (R143) -/

theorem exec_ldBVx (x : Nibble) (s : State) :
    exec (.ldBVx x) s = .next (guarded (addrValid (effAddr s 2)) .addressOutOfRange (encode (.ldBVx x))
      (advance (encode (.ldBVx x)) (setMem (memWriteBytes s.mem (effAddr s 0) (bcdDigits (getV s x))))) s) := rfl

theorem bcdDigits_hundreds (b : Byte) : ((bcdDigits b).getD 0 0#8).toNat = b.toNat / 100 := by
  simp only [bcdDigits, List.getD_cons_zero, BitVec.toNat_ofNat]
  omega

theorem bcdDigits_tens (b : Byte) : ((bcdDigits b).getD 1 0#8).toNat = b.toNat / 10 % 10 := by
  simp only [bcdDigits, List.getD_cons_succ, List.getD_cons_zero, BitVec.toNat_ofNat]
  omega

theorem bcdDigits_ones (b : Byte) : ((bcdDigits b).getD 2 0#8).toNat = b.toNat % 10 := by
  simp only [bcdDigits, List.getD_cons_succ, List.getD_cons_zero, BitVec.toNat_ofNat]
  omega

/-- Settles O31: LD B, Vx is a guarded store of the three digit bytes. -/
theorem storeDecimalDigits : Obligations.StoreDecimalDigits := by
  unfold Obligations.StoreDecimalDigits
  intro x s
  rw [exec_ldBVx]
  refine ⟨decodeWord_ldBVx x, fun ha h hwf => ?_, next_guarded_addrValid_of_outside _ _ s,
    next_guarded_advance_of_invalid _ _ s⟩
  obtain ⟨t, ht, hinside, houtside, hpc, hframe⟩ := next_guarded_store_of_valid
    (encode (.ldBVx x)) (bcdDigits (getV s x)) 2 s (bcdDigits_length _) ha h hwf
  refine ⟨t, ht, ?hundreds, ?tens, ?ones, houtside, hpc, hframe⟩
  case hundreds => rw [hinside 0 (by decide), bcdDigits_hundreds]
  case tens => rw [hinside 1 (by decide), bcdDigits_tens]
  case ones => rw [hinside 2 (by decide), bcdDigits_ones]

/-! ### LD [I], Vx (R144) -/

theorem exec_ldMemVx (x : Nibble) (s : State) :
    exec (.ldMemVx x) s = .next (guarded (addrValid (effAddr s x.toNat)) .addressOutOfRange (encode (.ldMemVx x))
      (advance (encode (.ldMemVx x)) (setMem (memWriteBytes s.mem (effAddr s 0) (regBlock s x)))) s) := rfl

/-- Settles O32: LD [I], Vx is a guarded store of the register block, whose byte r is V[r]. -/
theorem storeRegisterBlock : Obligations.StoreRegisterBlock := by
  unfold Obligations.StoreRegisterBlock
  intro x s
  rw [exec_ldMemVx]
  refine ⟨decodeWord_ldMemVx x, fun ha h hwf => ?_, next_guarded_addrValid_of_outside _ _ s,
    next_guarded_advance_of_invalid _ _ s⟩
  obtain ⟨t, ht, hinside, houtside, hpc, hframe⟩ := next_guarded_store_of_valid
    (encode (.ldMemVx x)) (regBlock s x) x.toNat s (regBlock_length s x) ha h hwf
  refine ⟨t, ht, fun r hr => ?_, houtside, hpc, hframe⟩
  rw [hinside r.toNat hr, regBlock_getD s x r.toNat hr, BitVec.ofNat_toNat, BitVec.setWidth_eq]

/-! ### LD Vx, [I] (R145) -/

theorem exec_ldVxMem (x : Nibble) (s : State) :
    exec (.ldVxMem x) s = .next (guarded (addrValid (effAddr s x.toNat)) .addressOutOfRange (encode (.ldVxMem x))
      (advance (encode (.ldVxMem x)) (loadRegs x)) s) := rfl

/-- Settles O33: behind the address check LD Vx, [I] writes only registers, those up to x from memory. -/
theorem loadRegisterBlock : Obligations.LoadRegisterBlock := by
  unfold Obligations.LoadRegisterBlock
  intro x s
  rw [exec_ldVxMem]
  refine ⟨decodeWord_ldVxMem x, fun ha h => ?_, next_guarded_addrValid_of_outside _ _ s,
    next_guarded_advance_of_invalid _ _ s⟩
  rw [guarded_addrValid_of_inside _ _ s ha]
  simpa only [getV_loadRegs, effAddr] using next_advance_of_valid (encode (.ldVxMem x)) (loadRegs x) s rfl h

/-! ### ADD I, Vx (R141) -/

theorem exec_addIVx (x : Nibble) (s : State) :
    exec (.addIVx x) s = .next (advance (encode (.addIVx x)) (fun t => setV vf (indexFlag s.ireg (getV s x))
      (setI (BitVec.ofNat 12 (s.ireg.toNat + (getV s x).toNat)) t)) s) := rfl

theorem indexFlag_toNat (a : Addr) (b : Byte) :
    (indexFlag a b).toNat = if 0xFFF < a.toNat + b.toNat then 1 else 0 := by
  simp only [indexFlag, flagByte_toNat, decide_eq_true_eq]

/-- Settles O29: sum and flag are both computed from the old I and V[x], so VF as operand reads its old value. -/
theorem addToIndexSetsOverflow : Obligations.AddToIndexSetsOverflow := by
  unfold Obligations.AddToIndexSetsOverflow
  intro x s
  rw [exec_addIVx]
  refine ⟨decodeWord_addIVx x, fun h => ?_, next_advance_of_invalid _ _ s⟩
  rw [advance_of_valid _ _ s h]
  refine ⟨_, rfl, ?sum, ?flag, ?others, setPc_toNat _ _ h, rfl⟩
  case sum => exact BitVec.toNat_ofNat _ 12
  case flag => rw [getV_setPc, getV_setV, vf, if_pos rfl, indexFlag_toNat]
  case others => intro r hr; rw [getV_setPc, getV_setV, vf, if_neg hr, getV_setI]

end Sys2Proof.Machine
end

section
/-!
PROOFS. The delay timer: LD DT, Vx, which advances with one timer write.
-/

namespace Sys2Proof.Machine

/-! ### What a timer holds after it is set (R197) -/

@[simp] theorem timerSet_count (tb : TimeBase) (b : Byte) (now : Nat) : (timerSet tb b now).count = b := rfl
@[simp] theorem timerSet_setTime (tb : TimeBase) (b : Byte) (now : Nat) : (timerSet tb b now).setTime = now := rfl
@[simp] theorem timerSet_deadline (tb : TimeBase) (b : Byte) (now : Nat) :
    (timerSet tb b now).deadline = now + tb.pTick := rfl

/-! ### LD DT, Vx (R166) -/

theorem decodeWord_ldDtVx (x : Nibble) : decodeWord (wordXkk 0xF#4 x 0x15#8) = some (.ldDtVx x) := by
  simp [decodeWord, decodeFamilyF]

theorem exec_ldDtVx (x : Nibble) (s : State) :
    exec (.ldDtVx x) s = .next (advance (encode (.ldDtVx x)) (setDelayTimer (getV s x)) s) := rfl

/-- Settles O39: LD DT, Vx advances with the delay timer set at the cycle's time; a bad next PC discards that write. -/
theorem setDelayTimerFromVx : Obligations.SetDelayTimerFromVx := by
  unfold Obligations.SetDelayTimerFromVx
  intro x s
  rw [exec_ldDtVx]
  refine ⟨decodeWord_ldDtVx x, fun h => ?_, next_advance_of_invalid _ _ s⟩
  rw [advance_of_valid _ _ s h]
  refine ⟨_, rfl, ?count, ?setTime, ?deadline, setPc_toNat _ _ h, rfl⟩
  case count => rw [setPc_dt, setDelayTimer_dt, timerSet_count]
  case setTime => rw [setPc_dt, setDelayTimer_dt, timerSet_setTime]
  case deadline => rw [setPc_dt, setDelayTimer_dt, timerSet_deadline]

end Sys2Proof.Machine
end

section
/-!
PROOFS. Exceptions: the instruction's own check fails before anything is written or requested (60_exceptions R188, R190).
-/

namespace Sys2Proof.Machine

/-! ### The template for an instruction whose own check fails -/

/-- A failed check leaves only the record: the body, with its check of the next PC and its writes, is never reached. -/
theorem next_guarded_of_failed (k : FaultKind) (w : Word) {ok : Bool} (body : State → State) (s : State)
    (h : ok = false) : (.next (guarded ok k w body s) : Result) = .next (haltedWith k w s) := by
  rw [h, guarded_false, raise_eq_haltedWith]

/-! ### CALL on a full stack (R182), RET on an empty one (R183) -/

theorem encode_ret : encode .ret = 0x00EE#16 := rfl

theorem exec_call (nnn : Addr) (s : State) :
    exec (.call nnn) s = .next (guarded (decide (s.sp.val ≠ 16)) .stackOverflow (encode (.call nnn))
      (commit (encode (.call nnn)) nnn.toNat (push (s.pc + 2#16))) s) := rfl

theorem exec_ret (s : State) :
    exec .ret s = .next (guarded (decide (s.sp.val ≠ 0)) .stackUnderflow (encode .ret)
      (commit (encode .ret) (stackTop s).toNat dropTop) s) := rfl

/-- Settles O41: the depth of the stack fails each instruction's own check, which stands before its `commit`. -/
theorem stackFaultsPushAndPopNothing : Obligations.StackFaultsPushAndPopNothing := by
  unfold Obligations.StackFaultsPushAndPopNothing
  refine ⟨fun nnn s hfull => ?full, fun s hempty => ?empty⟩
  case full =>
    rw [exec_call]
    exact next_guarded_of_failed _ _ _ s (decide_eq_false (not_not_intro hfull))
  case empty =>
    rw [exec_ret, ← encode_ret]
    exact next_guarded_of_failed _ _ _ s (decide_eq_false (not_not_intro hempty))

/-! ### An address beyond 0xFFF (R184) -/

theorem exec_drwVxVyN (x y n : Nibble) (s : State) :
    exec (.drwVxVyN x y n) s = .next (guarded (spriteInRange s n) .addressOutOfRange (encode (.drwVxVyN x y n))
      (advance (encode (.drwVxVyN x y n)) (fun t =>
        setV vf (flagByte (drawAnswer (spriteBytes s n) (getV s x) (getV s y) s))
          (displayDraw (spriteBytes s n) (getV s x) (getV s y) t))) s) := rfl

/-- A sprite with rows is checked as a store is: at the address of its last byte. -/
theorem spriteInRange_of_pos (s : State) (n : Nibble) (hn : 0 < n.toNat) :
    spriteInRange s n = addrValid (effAddr s (n.toNat - 1)) := by
  rw [spriteInRange, decide_eq_false hn.ne', Bool.false_or]

/-- Settles O42: each of the four is guarded by the check of its last address, and that check fails. -/
theorem addressFaultsTouchNothing : Obligations.AddressFaultsTouchNothing := by
  unfold Obligations.AddressFaultsTouchNothing
  intro x y n s
  refine ⟨fun hn hout => ?sprite, ?digits, fun hout => ⟨?store, ?load⟩⟩
  case sprite =>
    rw [exec_drwVxVyN, spriteInRange_of_pos s n hn]
    exact next_guarded_addrValid_of_outside _ _ s hout
  case digits =>
    rw [exec_ldBVx]
    exact next_guarded_addrValid_of_outside _ _ s
  case store =>
    rw [exec_ldMemVx]
    exact next_guarded_addrValid_of_outside _ _ s hout
  case load =>
    rw [exec_ldVxMem]
    exact next_guarded_addrValid_of_outside _ _ s hout

end Sys2Proof.Machine
end

section
/-!
PROOFS. Decoding: `decodeWord` and `encode` undo each other, and which words do not decode (30_encoding R72, R75, R77).
-/

namespace Sys2Proof.Machine

/-! ### Decoding an assembled word (R75) -/

/-- SYS is every word 0x0nnn that the whole-word comparison of R76 (b) leaves over. -/
theorem decodeWord_sys (nnn : Addr) (hcls : nnn ≠ 0x0E0#12) (hret : nnn ≠ 0x0EE#12) :
    decodeWord (wordNnn 0x0#4 nnn) = some (.sys nnn) := by
  have hne (a : Addr) (ha : nnn ≠ a) : wordNnn 0x0#4 nnn ≠ wordNnn 0x0#4 a := fun e =>
    ha (by simpa using congrArg nnnField e)
  have hclsWord : wordNnn 0x0#4 nnn ≠ 0x00E0#16 := hne 0x0E0#12 hcls
  have hretWord : wordNnn 0x0#4 nnn ≠ 0x00EE#16 := hne 0x0EE#12 hret
  simp [decodeWord, decodeFamily0, hclsWord, hretWord]

/-- Settles O2: CLS and RET are whole words and SYS is what they leave over; every other word is read field by field. -/
theorem decodeInvertsEncode : Obligations.DecodeInvertsEncode := by
  unfold Obligations.DecodeInvertsEncode
  intro ins hwf
  cases ins with
  | cls => rfl
  | ret => rfl
  | sys nnn =>
    simp only [Instr.wellFormed, Bool.and_eq_true, bne_iff_ne] at hwf
    obtain ⟨hcls, hret⟩ := hwf
    exact decodeWord_sys nnn hcls hret
  | _ => simp [encode, decodeWord, decodeFamily8, decodeFamilyE, decodeFamilyF]

/-! ### A word from its selectors and operands (R72, R74) -/

theorem wordNnn_nnnField {op : Nat} {w : Word} (hop : (opField w).toNat = op) :
    wordNnn (BitVec.ofNat 4 op) (nnnField w) = w := by
  rw [← hop, BitVec.ofNat_toNat, BitVec.setWidth_eq, wordNnn_fields]

theorem wordXkk_xField {op kk : Nat} {w : Word} (hop : (opField w).toNat = op) (hkk : (kkField w).toNat = kk) :
    wordXkk (BitVec.ofNat 4 op) (xField w) (BitVec.ofNat 8 kk) = w := by
  rw [← hop, ← hkk, BitVec.ofNat_toNat, BitVec.ofNat_toNat, BitVec.setWidth_eq, BitVec.setWidth_eq, wordXkk_fields]

theorem wordXkk_xField_kkField {op : Nat} {w : Word} (hop : (opField w).toNat = op) :
    wordXkk (BitVec.ofNat 4 op) (xField w) (kkField w) = w := by
  rw [← hop, BitVec.ofNat_toNat, BitVec.setWidth_eq, wordXkk_fields]

theorem wordXyn_xField_yField {op n : Nat} {w : Word} (hop : (opField w).toNat = op) (hn : (nField w).toNat = n) :
    wordXyn (BitVec.ofNat 4 op) (xField w) (yField w) (BitVec.ofNat 4 n) = w := by
  rw [← hop, ← hn, BitVec.ofNat_toNat, BitVec.ofNat_toNat, BitVec.setWidth_eq, BitVec.setWidth_eq, wordXyn_fields]

theorem wordXyn_fields_of_op {op : Nat} {w : Word} (hop : (opField w).toNat = op) :
    wordXyn (BitVec.ofNat 4 op) (xField w) (yField w) (nField w) = w := by
  rw [← hop, BitVec.ofNat_toNat, BitVec.setWidth_eq, wordXyn_fields]

/-! ### What each family decodes to is well-formed and has the word as its own (R75, R76) -/

theorem encode_decodeFamily0 {w : Word} (hop : (opField w).toNat = 0x0) :
    encode (decodeFamily0 w) = w ∧ (decodeFamily0 w).wellFormed = true := by
  have hw := wordNnn_nnnField hop
  unfold decodeFamily0
  split
  case isTrue hcls => exact ⟨hcls.symm, rfl⟩
  case isFalse hcls =>
    split
    case isTrue hret => exact ⟨hret.symm, rfl⟩
    case isFalse hret =>
      have hne (a : Addr) (ha : w ≠ wordNnn 0x0#4 a) : (nnnField w != a) = true :=
        bne_iff_ne.mpr fun e => ha (e ▸ hw.symm)
      exact ⟨hw, Bool.and_eq_true_iff.mpr ⟨hne 0x0E0#12 hcls, hne 0x0EE#12 hret⟩⟩

theorem encode_of_decodeFamily8 {w : Word} {ins : Instr} (hop : (opField w).toNat = 0x8)
    (h : decodeFamily8 w = some ins) : encode ins = w ∧ ins.wellFormed = true := by
  unfold decodeFamily8 at h
  split at h <;> cases h
  all_goals rename_i hn; exact ⟨wordXyn_xField_yField hop hn, rfl⟩

theorem encode_of_decodeFamilyE {w : Word} {ins : Instr} (hop : (opField w).toNat = 0xE)
    (h : decodeFamilyE w = some ins) : encode ins = w ∧ ins.wellFormed = true := by
  unfold decodeFamilyE at h
  split at h <;> cases h
  all_goals rename_i hkk; exact ⟨wordXkk_xField hop hkk, rfl⟩

theorem encode_of_decodeFamilyF {w : Word} {ins : Instr} (hop : (opField w).toNat = 0xF)
    (h : decodeFamilyF w = some ins) : encode ins = w ∧ ins.wellFormed = true := by
  unfold decodeFamilyF at h
  split at h <;> cases h
  all_goals rename_i hkk; exact ⟨wordXkk_xField hop hkk, rfl⟩

theorem encode_of_decodeWord {w : Word} {ins : Instr} (h : decodeWord w = some ins) :
    encode ins = w ∧ ins.wellFormed = true := by
  unfold decodeWord at h
  split at h
  case h_1 hop => cases h; exact encode_decodeFamily0 hop
  case h_6 hop | h_10 hop =>
    split at h <;> cases h
    rename_i hn
    exact ⟨wordXyn_xField_yField hop (congrArg BitVec.toNat hn), rfl⟩
  case h_9 hop => exact encode_of_decodeFamily8 hop h
  case h_14 hop => cases h; exact ⟨wordXyn_fields_of_op hop, rfl⟩
  case h_15 hop => exact encode_of_decodeFamilyE hop h
  case h_16 => exact encode_of_decodeFamilyF (by have := (opField w).isLt; simp only [imp_false] at *; omega) h
  case h_2 hop | h_3 hop | h_11 hop | h_12 hop => cases h; exact ⟨wordNnn_nnnField hop, rfl⟩
  case h_4 hop | h_5 hop | h_7 hop | h_8 hop | h_13 hop => cases h; exact ⟨wordXkk_xField_kkField hop, rfl⟩

/-- Settles O3: family by family, the selectors that chose the row and the operands it took are all the bits of the word. -/
theorem encodeInvertsDecode : Obligations.EncodeInvertsDecode := by
  unfold Obligations.EncodeInvertsDecode
  intro w ins h
  exact encode_of_decodeWord h

/-! ### The fields of a word as numbers (R71) -/

theorem opField_toNat (w : Word) : (opField w).toNat = w.toNat / 0x1000 := by
  have := w.isLt
  simp only [opField, BitVec.extractLsb'_toNat, Nat.shiftRight_eq_div_pow]
  omega

theorem kkField_toNat (w : Word) : (kkField w).toNat = w.toNat % 0x100 := by
  simp [kkField]

theorem nField_toNat (w : Word) : (nField w).toNat = w.toNat % 0x10 := by
  simp [nField]

/-! ### The malformed words of each family (R77) -/

theorem decodeFamily8_eq_none_iff (w : Word) :
    decodeFamily8 w = none ↔ (nField w).toNat ∈ [0x8, 0x9, 0xA, 0xB, 0xC, 0xD, 0xF] := by
  have hlt := (nField w).isLt
  unfold decodeFamily8
  split
  case h_10 => simp only [imp_false, List.mem_cons, List.not_mem_nil, or_false, true_iff] at *; omega
  all_goals rename_i hn; simp [hn]

theorem decodeFamilyE_eq_none_iff (w : Word) : decodeFamilyE w = none ↔ (kkField w).toNat ∉ [0x9E, 0xA1] := by
  unfold decodeFamilyE
  split
  case h_3 h9E hA1 => simp; exact ⟨h9E, hA1⟩
  all_goals rename_i hkk; simp [hkk]

theorem decodeFamilyF_eq_none_iff (w : Word) :
    decodeFamilyF w = none ↔ (kkField w).toNat ∉ [0x07, 0x0A, 0x15, 0x18, 0x1E, 0x29, 0x33, 0x55, 0x65] := by
  unfold decodeFamilyF
  split
  case h_10 => simp only [imp_false] at *; simp [*]
  all_goals rename_i hkk; simp [hkk]

/-- Families 5 and 9 need a last nibble of 0, families 8, E and F a selector of their tables; the others take any word. -/
theorem decodeWord_eq_none_iff (w : Word) : decodeWord w = none ↔
    ((opField w).toNat = 0x5 ∧ (nField w).toNat ≠ 0) ∨
    ((opField w).toNat = 0x9 ∧ (nField w).toNat ≠ 0) ∨
    ((opField w).toNat = 0x8 ∧ decodeFamily8 w = none) ∨
    ((opField w).toNat = 0xE ∧ decodeFamilyE w = none) ∨
    ((opField w).toNat = 0xF ∧ decodeFamilyF w = none) := by
  have hlt := (opField w).isLt
  unfold decodeWord
  split
  case h_16 =>
    have hop : (opField w).toNat = 0xF := by simp only [imp_false] at *; omega
    simp [hop]
  case h_6 hop | h_10 hop => simp [hop, ← BitVec.toNat_inj]
  all_goals rename_i hop; simp [hop]

/-- Settles O4: the families that reject a word, with each selector read as a number. -/
theorem malformedWordsAreThoseOfTheTable : Obligations.MalformedWordsAreThoseOfTheTable := by
  unfold Obligations.MalformedWordsAreThoseOfTheTable
  intro w
  rw [decodeWord_eq_none_iff, decodeFamily8_eq_none_iff, decodeFamilyE_eq_none_iff, decodeFamilyF_eq_none_iff,
    opField_toNat, nField_toNat, kkField_toNat]

/-- Settles O1: each word is read by evaluation of the decoder. -/
theorem decodeReadsSpecWords : Obligations.DecodeReadsSpecWords := by
  unfold Obligations.DecodeReadsSpecWords
  decide

end Sys2Proof.Machine
end

section
/-!
PROOFS. What executing any one instruction can do, said once: the template R84 as one equation over all instructions but Fx0A,
the cases of Fx0A, and from them the cases of `exec`.
-/

namespace Sys2Proof.Machine

/-! ### The parts of the template (30_encoding R82 to R84) -/

/-- The instruction's own check, step (2) of R84; for Fx0A the check of the keyboard's answer (R165). -/
def ownCheck (ins : Instr) (s : State) : Bool :=
  match ins with
  | .ret            => decide (s.sp.val ≠ 0)
  | .call _         => decide (s.sp.val ≠ 16)
  | .drwVxVyN _ _ n => spriteInRange s n
  | .skpVx x | .sknpVx x | .ldFVx x => atMost15 (getV s x)
  | .ldVxK _        => s.inputs.keyAnswer.any atMost15
  | .ldBVx _        => addrValid (effAddr s 2)
  | .ldMemVx x | .ldVxMem x => addrValid (effAddr s x.toNat)
  | _               => true

/-- The fault that the instruction's own check raises. -/
def ownFault (ins : Instr) : FaultKind :=
  match ins with
  | .ret      => .stackUnderflow
  | .call _   => .stackOverflow
  | .skpVx _ | .sknpVx _ | .ldVxK _ => .invalidKeyIndex
  | .ldFVx _  => .invalidGlyphIndex
  | _         => .addressOutOfRange

/-- The next PC that step (4) of R84 checks. -/
def nextTarget (ins : Instr) (s : State) : Nat :=
  match ins with
  | .ret          => (stackTop s).toNat
  | .jp nnn | .call nnn => nnn.toNat
  | .jpV0Nnn nnn  => nnn.toNat + (getV s v0).toNat
  | .seVxKk x kk  => if getV s x == kk then skipPc s else nextPc s
  | .sneVxKk x kk => if getV s x != kk then skipPc s else nextPc s
  | .seVxVy x y   => if getV s x == getV s y then skipPc s else nextPc s
  | .sneVxVy x y  => if getV s x != getV s y then skipPc s else nextPc s
  | .skpVx x      => if isPressed s (keyIndex s x) then skipPc s else nextPc s
  | .sknpVx x     => if !isPressed s (keyIndex s x) then skipPc s else nextPc s
  | _             => nextPc s

/-- The state after the keyboard read that comes before the check of the next PC (R162, R163, R165). -/
def queried (ins : Instr) (s : State) : State :=
  match ins with
  | .skpVx x | .sknpVx x => send (.isPressed (keyIndex s x)) s
  | .ldVxK _             => send .waitForAnyKey s
  | _                    => s

/-- All writes and requests of the instruction together, step (5) of R84, but for the PC write. -/
def effect (ins : Instr) (s : State) : State :=
  match ins with
  | .cls            => displayClear s
  | .ret            => dropTop s
  | .call _         => push (s.pc + 2#16) s
  | .ldVxKk x kk    => setV x kk s
  | .addVxKk x kk   => setV x (getV s x + kk) s
  | .ldVxVy x y     => setV x (getV s y) s
  | .orVxVy x y     => setV x (getV s x ||| getV s y) s
  | .andVxVy x y    => setV x (getV s x &&& getV s y) s
  | .xorVxVy x y    => setV x (getV s x ^^^ getV s y) s
  | .addVxVy x y    => writeFlagThenResult x (carryFlag (getV s x) (getV s y)) (getV s x + getV s y) s
  | .subVxVy x y    => writeFlagThenResult x (noBorrowFlag (getV s x) (getV s y)) (getV s x - getV s y) s
  | .shrVx x _      => writeFlagThenResult x (shrFlag (getV s x)) (getV s x >>> 1) s
  | .subnVxVy x y   => writeFlagThenResult x (noBorrowFlag (getV s y) (getV s x)) (getV s y - getV s x) s
  | .shlVx x _      => writeFlagThenResult x (shlFlag (getV s x)) (getV s x <<< 1) s
  | .ldINnn nnn     => setI nnn s
  | .rndVxKk x kk   => send .rngByte (setV x (s.inputs.random &&& kk) s)
  | .drwVxVyN x y n => setV vf (flagByte (drawAnswer (spriteBytes s n) (getV s x) (getV s y) s))
      (displayDraw (spriteBytes s n) (getV s x) (getV s y) s)
  | .ldVxDt x       => setV x (timerGet s.dt) s
  | .ldVxK x        => setRun .running (setV x (s.inputs.keyAnswer.getD 0#8) (queried (.ldVxK x) s))
  | .ldDtVx x       => setDelayTimer (getV s x) s
  | .ldStVx x       => setSoundTimer (getV s x) s
  | .addIVx x       => setV vf (indexFlag s.ireg (getV s x)) (setI (BitVec.ofNat 12 (s.ireg.toNat + (getV s x).toNat)) s)
  | .ldFVx x        => setI (glyphAddr (getV s x)) s
  | .ldBVx x        => setMem (memWriteBytes s.mem (effAddr s 0) (bcdDigits (getV s x))) s
  | .ldMemVx x      => setMem (memWriteBytes s.mem (effAddr s 0) (regBlock s x)) s
  | .ldVxMem x      => loadRegs x s
  | .skpVx _ | .sknpVx _ => queried ins s
  | .sys _ | .jp _ | .seVxKk _ _ | .sneVxKk _ _ | .seVxVy _ _ | .sneVxVy _ _ | .jpV0Nnn _ => s

/-- R84 as one expression: the own check, the keyboard read, the check of the next PC, then everything together. -/
def template (ins : Instr) (s : State) : State :=
  guarded (ownCheck ins s) (ownFault ins) (encode ins)
    (fun _ => commit (encode ins) (nextTarget ins s) (fun _ => effect ins s) (queried ins s)) s

/-- Every meaning but that of Fx0A is the template. -/
theorem exec_eq_template (ins : Instr) (s : State) (hins : ∀ x, ins ≠ .ldVxK x) :
    exec ins s = .next (template ins s) := by
  cases ins with
  | ldVxK x => exact absurd rfl (hins x)
  | _ => rfl

/-! ### One look at the keyboard (R165) -/

theorem exec_ldVxK (x : Nibble) (s : State) : exec (.ldVxK x) s = .next (awaitKey x (send .waitForAnyKey s)) := rfl

theorem awaitKey_none (x : Nibble) (s : State) (hk : s.inputs.keyAnswer = none) :
    awaitKey x s = setRun (.waitKey x) s := by
  simp only [awaitKey, hk]

theorem awaitKey_some (x : Nibble) (s : State) {k : Byte} (hk : s.inputs.keyAnswer = some k) :
    awaitKey x s = keyAnswered x k s := by
  simp only [awaitKey, hk]

theorem atMost15_eq_false {b : Byte} (h : 15 < b.toNat) : atMost15 b = false := by
  rw [Bool.eq_false_iff, ne_eq, atMost15_iff]
  omega

theorem awaitKey_above15 (x : Nibble) (s : State) {k : Byte} (hk : s.inputs.keyAnswer = some k) (h15 : 15 < k.toNat) :
    awaitKey x s = raise .invalidKeyIndex (encode (.ldVxK x)) s := by
  rw [awaitKey_some x s hk, keyAnswered, atMost15_eq_false h15, guarded_false]

theorem awaitKey_of_valid (x : Nibble) (s : State) {k : Byte} (hk : s.inputs.keyAnswer = some k) (h15 : k.toNat ≤ 15)
    (hpc : PcTarget (s.pc.toNat + 2)) :
    awaitKey x s = setPc (s.pc.toNat + 2) (setRun .running (setV x k s)) := by
  rw [awaitKey_some x s hk, keyAnswered, (atMost15_iff k).mpr h15, guarded_true, advance_of_valid _ _ s hpc]

theorem awaitKey_of_invalid (x : Nibble) (s : State) {k : Byte} (hk : s.inputs.keyAnswer = some k) (h15 : k.toNat ≤ 15)
    (hpc : ¬ PcTarget (s.pc.toNat + 2)) : awaitKey x s = raise .pcOutOfRange (encode (.ldVxK x)) s := by
  rw [awaitKey_some x s hk, keyAnswered, (atMost15_iff k).mpr h15, guarded_true, advance_of_invalid _ _ s hpc]

/-- Everything `awaitKey` can do. -/
theorem awaitKey_cases (x : Nibble) (s : State) :
    awaitKey x s = setRun (.waitKey x) s ∨
    (∃ kind, kind ≠ FaultKind.none ∧ awaitKey x s = raise kind (encode (.ldVxK x)) s) ∨
    (∃ k, s.inputs.keyAnswer = some k ∧ k.toNat ≤ 15 ∧ PcTarget (s.pc.toNat + 2) ∧
      awaitKey x s = setPc (s.pc.toNat + 2) (setRun .running (setV x k s))) := by
  cases hk : s.inputs.keyAnswer with
  | none => exact .inl (awaitKey_none x s hk)
  | some k =>
    by_cases h15 : k.toNat ≤ 15
    · by_cases hpc : PcTarget (s.pc.toNat + 2)
      · exact .inr (.inr ⟨k, rfl, h15, hpc, awaitKey_of_valid x s hk h15 hpc⟩)
      · exact .inr (.inl ⟨_, by decide, awaitKey_of_invalid x s hk h15 hpc⟩)
    · exact .inr (.inl ⟨_, by decide, awaitKey_above15 x s hk (by omega)⟩)

/-! ### Everything `exec` can do -/

theorem ownFault_ne_none (ins : Instr) : ownFault ins ≠ .none := by
  unfold ownFault
  split <;> decide

/-- The states that executing `ins` in `s` can lead to. -/
inductive ExecOutcome (ins : Instr) (s : State) : State → Prop where
  /-- Both checks pass: every write and the PC write are made. -/
  | completes (hok : ownCheck ins s = true) (hpc : PcTarget (nextTarget ins s)) :
      ExecOutcome ins s (setPc (nextTarget ins s) (effect ins s))
  /-- A check fails, before or after the keyboard read. -/
  | faults (kind : FaultKind) (u : State) (hkind : kind ≠ .none) (hu : u = s ∨ u = queried ins s) :
      ExecOutcome ins s (raise kind (encode ins) u)
  /-- Fx0A has no answer yet. -/
  | waits (x : Nibble) (hins : ins = .ldVxK x) : ExecOutcome ins s (setRun (.waitKey x) (queried ins s))

theorem template_outcome (ins : Instr) (s : State) : ExecOutcome ins s (template ins s) := by
  unfold template
  cases hok : ownCheck ins s with
  | false => exact .faults _ s (ownFault_ne_none ins) (.inl rfl)
  | true =>
    rw [guarded_true]
    obtain ⟨hpc, heq⟩ | ⟨_, heq⟩ := commit_cases (encode ins) (nextTarget ins s) (fun _ => effect ins s) (queried ins s)
    · rw [heq]; exact .completes hok hpc
    · rw [heq]; exact .faults _ _ (by decide) (.inr rfl)

theorem awaitKey_outcome (x : Nibble) (s : State) :
    ExecOutcome (.ldVxK x) s (awaitKey x (send .waitForAnyKey s)) := by
  obtain heq | ⟨kind, hkind, heq⟩ | ⟨k, hk, h15, hpc, heq⟩ := awaitKey_cases x (send .waitForAnyKey s)
  · rw [heq]; exact .waits x rfl
  · rw [heq]; exact .faults kind _ hkind (.inr rfl)
  · rw [send_inputs] at hk
    have hok : ownCheck (.ldVxK x) s = true := by simp [ownCheck, hk, h15]
    have heffect : setRun .running (setV x k (send .waitForAnyKey s)) = effect (.ldVxK x) s := by
      simp only [effect, hk, Option.getD_some, queried]
    rw [heq, heffect]
    exact .completes hok hpc

theorem exec_outcome {ins : Instr} {s t : State} (h : exec ins s = .next t) : ExecOutcome ins s t := by
  by_cases hins : ∃ x, ins = .ldVxK x
  · obtain ⟨x, rfl⟩ := hins
    rw [exec_ldVxK] at h
    cases h
    exact awaitKey_outcome x s
  · rw [exec_eq_template ins s (fun x e => hins ⟨x, e⟩)] at h
    cases h
    exact template_outcome ins s

end Sys2Proof.Machine
end

section
/-!
PROOFS. What no instruction changes (10_state R20 to R28): each from the cases of `exec` and one lemma about `effect`.
-/

namespace Sys2Proof.Machine

/-! ### The keyboard read -/

/-- The keyboard read changes the record of requests only. -/
theorem queried_eq (ins : Instr) (s : State) : queried ins s = { s with requests := (queried ins s).requests } := by
  cases ins <;> rfl

theorem queried_requests (ins : Instr) (s : State) :
    (queried ins s).requests = s.requests ∨
    (∃ x k, (ins = .skpVx x ∨ ins = .sknpVx x) ∧ (queried ins s).requests = .isPressed k :: s.requests) ∨
    (∃ x, ins = .ldVxK x ∧ (queried ins s).requests = .waitForAnyKey :: s.requests) := by
  cases ins with
  | skpVx x => exact .inr (.inl ⟨x, _, .inl rfl, rfl⟩)
  | sknpVx x => exact .inr (.inl ⟨x, _, .inr rfl, rfl⟩)
  | ldVxK x => exact .inr (.inr ⟨x, rfl, rfl⟩)
  | _ => exact .inl rfl

/-- No request is sent but at most one, and that no tone. -/
def SendsNoTone (s t : State) : Prop := t.requests = s.requests ∨ ∃ q, t.requests = q :: s.requests ∧ ∀ b, q ≠ .tone b

theorem queried_sendsNoTone (ins : Instr) (s : State) : SendsNoTone s (queried ins s) := by
  obtain h | ⟨_, k, _, h⟩ | ⟨_, _, h⟩ := queried_requests ins s
  · exact .inl h
  · exact .inr ⟨_, h, nofun⟩
  · exact .inr ⟨_, h, nofun⟩

/-! ### A part of the state that `effect` keeps -/

/-- A part `π` of the state that is neither PC nor the run state, the fault record or the log is kept by `exec` where
`effect` keeps it: a fault and the wait of Fx0A touch only those four. -/
theorem ExecOutcome.keeps {α : Type} {ins : Instr} {s t : State} (π : State → α)
    (hπ : ∀ u pc run fault requests,
      π { u with pc := pc, run := run, fault := fault, requests := requests } = π u)
    (heffect : π (effect ins s) = π s) (h : ExecOutcome ins s t) : π t = π s := by
  have hqueried : π (queried ins s) = π s := by
    rw [queried_eq]; exact hπ s s.pc s.run s.fault _
  cases h with
  | completes _ _ => exact (hπ (effect ins s) _ _ _ _).trans heffect
  | faults kind u _ hu =>
    obtain rfl | rfl := hu
    · exact hπ u _ _ _ _
    · exact (hπ (queried ins s) _ _ _ _).trans hqueried
  | waits x _ => exact (hπ (queried ins s) _ _ _ _).trans hqueried

/-! ### What each part of the state is after `effect` -/

theorem getV_effect (ins : Instr) (s : State) (r : Nibble) (hr : ¬ mayWriteV ins r) : getV (effect ins s) r = getV s r := by
  cases ins with
  | ldVxMem x => simp only [effect, getV_loadRegs, if_neg (show ¬ r.toNat ≤ x.toNat from hr)]
  | addVxVy x y | subVxVy x y | shrVx x y | subnVxVy x y | shlVx x y =>
    obtain ⟨hx, hf⟩ := not_or.mp hr
    simp only [effect, getV_writeFlagThenResult, if_neg hx, if_neg hf]
  | addIVx x => simp only [effect, getV_setV, getV_setI, vf, if_neg (show ¬ r = 15#4 from hr)]
  | drwVxVyN x y n => simp only [effect, getV_setV, vf, if_neg (show ¬ r = 15#4 from hr)]; rfl
  | ldVxKk x _ | addVxKk x _ | ldVxVy x _ | orVxVy x _ | andVxVy x _ | xorVxVy x _ | rndVxKk x _ | ldVxDt x | ldVxK x =>
    simp only [effect, getV_send, getV_setRun, getV_setV, queried, if_neg (show ¬ r = x from hr)]
  | _ => rfl

theorem effect_ireg (ins : Instr) (s : State) (hld : ∀ nnn, ins ≠ .ldINnn nnn) (hadd : ∀ x, ins ≠ .addIVx x)
    (hglyph : ∀ x, ins ≠ .ldFVx x) : (effect ins s).ireg = s.ireg := by
  cases ins with
  | ldINnn nnn => exact absurd rfl (hld nnn)
  | addIVx x => exact absurd rfl (hadd x)
  | ldFVx x => exact absurd rfl (hglyph x)
  | _ => rfl

theorem effect_mem (ins : Instr) (s : State) (hdigits : ∀ x, ins ≠ .ldBVx x) (hblock : ∀ x, ins ≠ .ldMemVx x) :
    (effect ins s).mem = s.mem := by
  cases ins with
  | ldBVx x => exact absurd rfl (hdigits x)
  | ldMemVx x => exact absurd rfl (hblock x)
  | _ => rfl

theorem effect_stack (ins : Instr) (s : State) (hcall : ∀ nnn, ins ≠ .call nnn) : (effect ins s).stack = s.stack := by
  cases ins with
  | call nnn => exact absurd rfl (hcall nnn)
  | _ => rfl

theorem effect_sp (ins : Instr) (s : State) (hcall : ∀ nnn, ins ≠ .call nnn) (hret : ins ≠ .ret) :
    (effect ins s).sp = s.sp := by
  cases ins with
  | call nnn => exact absurd rfl (hcall nnn)
  | ret => exact absurd rfl hret
  | _ => rfl

theorem effect_dt (ins : Instr) (s : State) (hset : ∀ x, ins ≠ .ldDtVx x) : (effect ins s).dt = s.dt := by
  cases ins with
  | ldDtVx x => exact absurd rfl (hset x)
  | _ => rfl

theorem effect_st (ins : Instr) (s : State) (hset : ∀ x, ins ≠ .ldStVx x) : (effect ins s).st = s.st := by
  cases ins with
  | ldStVx x => exact absurd rfl (hset x)
  | _ => rfl

theorem effect_sendsNoTone (ins : Instr) (s : State) (hset : ∀ x, ins ≠ .ldStVx x) : SendsNoTone s (effect ins s) := by
  cases ins with
  | ldStVx x => exact absurd rfl (hset x)
  | skpVx x => exact queried_sendsNoTone (.skpVx x) s
  | sknpVx x => exact queried_sendsNoTone (.sknpVx x) s
  | ldVxK x => exact queried_sendsNoTone (.ldVxK x) s
  | cls => exact .inr ⟨.displayClear, rfl, nofun⟩
  | rndVxKk x kk => exact .inr ⟨.rngByte, rfl, nofun⟩
  | drwVxVyN x y n => exact .inr ⟨_, displayDraw_requests _ _ _ s, nofun⟩
  | _ => exact .inl rfl

theorem effect_fault (ins : Instr) (s : State) : (effect ins s).fault = s.fault := by cases ins <;> rfl

/-- The end of a wait is the only change of the run state that an instruction which completes makes (R165). -/
theorem effect_run (ins : Instr) (s : State) (hrun : s.run = .running) : (effect ins s).run = .running := by
  cases ins with
  | ldVxK x => rfl
  | _ => exact hrun

theorem effect_now (ins : Instr) (s : State) : (effect ins s).now = s.now := by cases ins <;> rfl
theorem effect_timeBase (ins : Instr) (s : State) : (effect ins s).timeBase = s.timeBase := by cases ins <;> rfl
theorem effect_cycleDeadline (ins : Instr) (s : State) : (effect ins s).cycleDeadline = s.cycleDeadline := by
  cases ins <;> rfl

/-! ### The statements over all instructions -/

/-- Settles O45: a register is kept unless the instruction's own writes reach it. -/
theorem onlyDestinationRegistersChange : Obligations.OnlyDestinationRegistersChange := by
  unfold Obligations.OnlyDestinationRegistersChange
  intro ins s t r h hr
  exact (exec_outcome h).keeps (getV · r) (fun _ _ _ _ _ => rfl) (getV_effect ins s r hr)

/-- Settles O46: `effect` writes I in those three instructions only. -/
theorem onlyIndexInstructionsChangeI : Obligations.OnlyIndexInstructionsChangeI := by
  unfold Obligations.OnlyIndexInstructionsChangeI
  intro ins s t h hld hadd hglyph
  exact (exec_outcome h).keeps State.ireg (fun _ _ _ _ _ => rfl) (effect_ireg ins s hld hadd hglyph)

/-- Settles O47: `effect` writes memory in the two stores only. -/
theorem onlyStoresChangeMemory : Obligations.OnlyStoresChangeMemory := by
  unfold Obligations.OnlyStoresChangeMemory
  intro ins s t h hdigits hblock
  exact (exec_outcome h).keeps State.mem (fun _ _ _ _ _ => rfl) (effect_mem ins s hdigits hblock)

/-- Settles O48: `effect` pushes in CALL and drops in RET only. -/
theorem onlyCallAndRetChangeTheStack : Obligations.OnlyCallAndRetChangeTheStack := by
  unfold Obligations.OnlyCallAndRetChangeTheStack
  intro ins s t h hcall
  exact ⟨(exec_outcome h).keeps State.stack (fun _ _ _ _ _ => rfl) (effect_stack ins s hcall),
    fun hret => (exec_outcome h).keeps State.sp (fun _ _ _ _ _ => rfl) (effect_sp ins s hcall hret)⟩

theorem ExecOutcome.sendsNoTone {ins : Instr} {s t : State} (hset : ∀ x, ins ≠ .ldStVx x) (h : ExecOutcome ins s t) :
    SendsNoTone s t := by
  cases h with
  | completes _ _ => exact effect_sendsNoTone ins s hset
  | faults kind u _ hu =>
    obtain rfl | rfl := hu
    · exact .inl rfl
    · exact queried_sendsNoTone ins s
  | waits x _ => exact queried_sendsNoTone ins s

theorem ExecOutcome.now {ins : Instr} {s t : State} (h : ExecOutcome ins s t) : t.now = s.now :=
  h.keeps State.now (fun _ _ _ _ _ => rfl) (effect_now ins s)

theorem ExecOutcome.timeBase {ins : Instr} {s t : State} (h : ExecOutcome ins s t) : t.timeBase = s.timeBase :=
  h.keeps State.timeBase (fun _ _ _ _ _ => rfl) (effect_timeBase ins s)

/-- Settles O49: `effect` sets each timer in one instruction only, and no other request it sends is a tone. -/
theorem onlyTimerInstructionsSetTimers : Obligations.OnlyTimerInstructionsSetTimers := by
  unfold Obligations.OnlyTimerInstructionsSetTimers
  intro ins s t h
  have hout := exec_outcome h
  refine ⟨fun hset => ?dt, fun hset => ⟨?st, hout.sendsNoTone hset⟩, hout.now, ?deadline, hout.timeBase⟩
  case dt => exact hout.keeps State.dt (fun _ _ _ _ _ => rfl) (effect_dt ins s hset)
  case st => exact hout.keeps State.st (fun _ _ _ _ _ => rfl) (effect_st ins s hset)
  case deadline => exact hout.keeps State.cycleDeadline (fun _ _ _ _ _ => rfl) (effect_cycleDeadline ins s)

/-- Settles O44: a running core is halted by a failed check only, and before a check only the keyboard is read. -/
theorem faultsArePrecise : Obligations.FaultsArePrecise := by
  unfold Obligations.FaultsArePrecise
  intro ins s t hrun h hhalted
  cases exec_outcome h with
  | completes _ _ => exact absurd ((effect_run ins s hrun).symm.trans hhalted) (by decide)
  | faults kind u hkind hu =>
    obtain rfl | rfl := hu
    · exact ⟨rfl, hkind, rfl, rfl, .inl rfl⟩
    · have hq := queried_eq ins s
      refine ⟨?frame, hkind, rfl, ?pc, queried_requests ins s⟩
      case frame => rw [hq]; rfl
      case pc => rw [hq]; rfl
  | waits x _ => exact absurd hhalted (by simp)

/-! ### The answers of the environment (93 U8 to U11) -/

/-- The state with another set of the environment's answers. -/
def withInputs (o : Inputs) (s : State) : State := { s with inputs := o }

/-- An instruction that reads no answer decides alike whatever the answers are, and carries them along. -/
theorem parts_withInputs (ins : Instr) (s : State) (o : Inputs) (h : ¬ readsInputs ins) :
    ownCheck ins (withInputs o s) = ownCheck ins s ∧ nextTarget ins (withInputs o s) = nextTarget ins s ∧
    queried ins (withInputs o s) = withInputs o (queried ins s) ∧
    effect ins (withInputs o s) = withInputs o (effect ins s) := by
  cases ins with
  | rndVxKk _ _ | skpVx _ | sknpVx _ | ldVxK _ => exact absurd trivial h
  | _ => exact ⟨rfl, rfl, rfl, rfl⟩

theorem template_withInputs (ins : Instr) (s : State) (o : Inputs) (h : ¬ readsInputs ins) :
    template ins (withInputs o s) = withInputs o (template ins s) := by
  obtain ⟨hcheck, htarget, hqueried, heffect⟩ := parts_withInputs ins s o h
  simp only [template, guarded, commit, hcheck, htarget, hqueried, heffect]
  split
  · split <;> rfl
  · rfl

/-- Settles O50: an instruction that reads no answer follows the template, which then carries the answers along. -/
theorem inputsReachOnlyFourInstructions : Obligations.InputsReachOnlyFourInstructions := by
  unfold Obligations.InputsReachOnlyFourInstructions
  intro ins s t other hreads h
  have hins : ∀ x, ins ≠ .ldVxK x := fun x e => hreads (e ▸ trivial)
  rw [exec_eq_template ins s hins] at h
  cases h
  exact (exec_eq_template ins (withInputs other s) hins).trans
    (congrArg Host.Outcome.next (template_withInputs ins s other hreads))

end Sys2Proof.Machine
end

section
/-!
PROOFS. The step by its run state (70_reset_and_hazards R235, R236; 43_peripheral R165), and what every step keeps of rate
and time.
-/

namespace Sys2Proof.Machine

/-! ### One step in each run state -/

theorem step_running (s : State) (hrun : s.run = .running) (hpc : s.pc.toNat + 1 ≤ 0xFFF) :
    step s = runWord (fetchWord s) (beginCycle s) := by
  have hcycle : step s = runCycle s := by simp only [step, runStep, hrun]
  rw [hcycle, runCycle, if_pos hpc]
  rfl

theorem step_outsideMemory (s : State) (hrun : s.run = .running) (hpc : ¬ s.pc.toNat + 1 ≤ 0xFFF) :
    step s = .fault (.fetchOutsideMemory s.pc) := by
  have hcycle : step s = runCycle s := by simp only [step, runStep, hrun]
  rw [hcycle, runCycle, if_neg hpc]

theorem step_waitKey (s : State) {x : Nibble} (hrun : s.run = .waitKey x) :
    step s = .next (awaitKey x (passStall (takeInputs s))) := by
  simp only [step, runStep, hrun, pollKey]

theorem step_halted (s : State) (hrun : s.run = .halted) : step s = .next s := by
  simp only [step, runStep, hrun]

theorem runWord_some {w : Word} {ins : Instr} (s : State) (h : decodeWord w = some ins) : runWord w s = exec ins s := by
  simp only [runWord, h]

theorem runWord_none {w : Word} (s : State) (h : decodeWord w = none) :
    runWord w s = .next (raise .malformedInstruction w s) := by
  simp only [runWord, h]

/-- Everything a step that answers a next state can have done. -/
theorem step_cases {s t : State} (h : step s = .next t) :
    (s.run = .running ∧ ∃ ins, encode ins = fetchWord s ∧ exec ins (beginCycle s) = .next t) ∨
    (s.run = .running ∧ t = raise .malformedInstruction (fetchWord s) (beginCycle s)) ∨
    (∃ x, s.run = .waitKey x ∧ t = awaitKey x (passStall (takeInputs s))) ∨
    (s.run = .halted ∧ t = s) := by
  cases hrun : s.run with
  | running =>
    by_cases hpc : s.pc.toNat + 1 ≤ 0xFFF
    · rw [step_running s hrun hpc] at h
      cases hdec : decodeWord (fetchWord s) with
      | some ins =>
        obtain ⟨hword, _⟩ := encode_of_decodeWord hdec
        exact .inl ⟨rfl, ins, hword, (runWord_some _ hdec).symm.trans h⟩
      | none =>
        rw [runWord_none _ hdec] at h
        cases h
        exact .inr (.inl ⟨rfl, rfl⟩)
    · rw [step_outsideMemory s hrun hpc] at h
      cases h
  | waitKey x =>
    rw [step_waitKey s hrun] at h
    cases h
    exact .inr (.inr (.inl ⟨x, rfl, rfl⟩))
  | halted =>
    rw [step_halted s hrun] at h
    cases h
    exact .inr (.inr (.inr ⟨rfl, rfl⟩))

/-- Settles O5: the state that `beginCycle` makes is the one the statement writes out. -/
theorem stepRunsTheDecodedInstruction : Obligations.StepRunsTheDecodedInstruction := by
  unfold Obligations.StepRunsTheDecodedInstruction
  intro s ins hrun hpc hdec
  exact (step_running s hrun hpc).trans (runWord_some (beginCycle s) hdec)

/-- Settles O6: as in O5, with `raise` in the place of `exec`; family 0 has an instruction for each of its words. -/
theorem malformedWordHaltsTheCore : Obligations.MalformedWordHaltsTheCore := by
  unfold Obligations.MalformedWordHaltsTheCore
  refine ⟨fun s w hrun hpc hfetch hdec => ?malformed, fun w hw => ?sys⟩
  case malformed =>
    subst hfetch
    exact (step_running s hrun hpc).trans (runWord_none (beginCycle s) hdec)
  case sys =>
    have hop : (opField w).toNat = 0 := by rw [opField_toNat]; omega
    simp [decodeWord, hop]

/-- Settles O7: HALTED is absorbing. -/
theorem haltedCoreNeverChanges : Obligations.HaltedCoreNeverChanges := by
  unfold Obligations.HaltedCoreNeverChanges
  exact step_halted

/-! ### Fx0A (R165) -/

/-- Settles O38: one lemma about `awaitKey` for each kind of answer, on the state after the request. -/
theorem keyWaitStoresTheAnswer : Obligations.KeyWaitStoresTheAnswer := by
  unfold Obligations.KeyWaitStoresTheAnswer
  intro x s
  rw [exec_ldVxK]
  refine ⟨fun k hk h15 hpc => ?stores, fun hk => ?waits, fun k hk h15 => ?rejects, fun k hk h15 hpc => ?endOfMemory⟩
  case stores =>
    rw [awaitKey_of_valid x (send .waitForAnyKey s) hk h15 hpc]
    refine ⟨_, rfl, fun r => ?_, rfl, rfl, setPc_toNat _ _ hpc, rfl⟩
    rw [getV_setPc, getV_setRun, getV_setV, getV_send]
  case waits => rw [awaitKey_none x (send .waitForAnyKey s) hk]; rfl
  case rejects => rw [awaitKey_above15 x (send .waitForAnyKey s) hk h15]; rfl
  case endOfMemory => rw [awaitKey_of_invalid x (send .waitForAnyKey s) hk h15 hpc]; rfl

/-- What a look at the keyboard can change: the run state, the fault record, the registers and PC. -/
theorem awaitKey_frame (x : Nibble) (s : State) :
    awaitKey x s = { s with run := (awaitKey x s).run, fault := (awaitKey x s).fault, v := (awaitKey x s).v,
                            pc := (awaitKey x s).pc } := by
  obtain h | ⟨kind, _, h⟩ | ⟨k, _, _, _, h⟩ := awaitKey_cases x s <;> rw [h] <;> rfl

/-- Settles O8: a step is one look at the keyboard, after fresh inputs and the time they say has passed. -/
theorem waitingCoreFreezesEverythingButTheClock : Obligations.WaitingCoreFreezesEverythingButTheClock := by
  unfold Obligations.WaitingCoreFreezesEverythingButTheClock
  intro s x hrun
  have hframe := awaitKey_frame x (passStall (takeInputs s))
  have hinputs : (awaitKey x (passStall (takeInputs s))).inputs = (passStall (takeInputs s)).inputs := by rw [hframe]
  refine ⟨awaitKey x (passStall (takeInputs s)), step_waitKey s hrun, hinputs, ?count, ?now, ?frame, fun hk => ?waits,
    fun k hk => ?answer⟩
  case count => rw [hframe]; rfl
  case now => rw [hframe]; rfl
  case frame => rw [hframe]; rfl
  case waits =>
    rw [hinputs] at hk
    rw [awaitKey_none x _ hk]
    exact ⟨rfl, rfl, rfl, rfl⟩
  case answer =>
    rw [hinputs] at hk
    refine ⟨fun h15 hpc => ?stores, fun h15 => ?rejects, fun h15 hpc => ?endOfMemory⟩
    case stores =>
      rw [awaitKey_of_valid x _ hk h15 hpc]
      refine ⟨rfl, rfl, fun r => ?_, setPc_toNat _ _ hpc⟩
      rw [getV_setPc, getV_setRun, getV_setV]
      rfl
    case rejects =>
      rw [awaitKey_above15 x _ hk h15]
      exact ⟨rfl, rfl, rfl, rfl⟩
    case endOfMemory =>
      rw [awaitKey_of_invalid x _ hk h15 hpc]
      exact ⟨rfl, rfl, rfl, rfl⟩

/-! ### Rate and time -/

theorem beginCycle_now_le (s : State) : s.now ≤ (beginCycle s).now := Nat.le_max_right s.cycleDeadline s.now

theorem passStall_now_le (s : State) : s.now ≤ (passStall (takeInputs s)).now := Nat.le_add_right s.now _

/-- Settles O53: only the start of a cycle and the wait of Fx0A move the clock, both forwards. -/
theorem rateIsFixedAndTimeNeverGoesBack : Obligations.RateIsFixedAndTimeNeverGoesBack := by
  unfold Obligations.RateIsFixedAndTimeNeverGoesBack
  intro s t h
  obtain ⟨_, ins, _, hexec⟩ | ⟨_, rfl⟩ | ⟨x, _, rfl⟩ | ⟨_, rfl⟩ := step_cases h
  · have hout := exec_outcome hexec
    exact ⟨hout.timeBase, hout.now ▸ beginCycle_now_le s⟩
  · exact ⟨rfl, beginCycle_now_le s⟩
  · rw [awaitKey_frame x (passStall (takeInputs s))]
    exact ⟨rfl, passStall_now_le s⟩
  · exact ⟨rfl, le_refl t.now⟩

end Sys2Proof.Machine
end

section
/-!
PROOFS. The invariant of Safety.lean: it holds after reset, every step keeps it, and from it the machine always steps.
-/

namespace Sys2Proof.Machine

/-! ### States that meet the invariant, by run state -/

/-- A running core has no fault recorded (10_state R36 (e)). -/
theorem Inv.fault_none_of_running {s : State} (h : Inv s) (hrun : s.run = .running) : s.fault.kind = .none := by
  by_contra hkind
  exact absurd (hrun.symm.trans (h.fault.mp hkind)) (by decide)

/-- A core in RUN meets the invariant when memory, PC and stack do and no fault is recorded. -/
theorem inv_of_running {s : State} (hmem : Memory.wf s.mem = true) (hpc : PcTarget s.pc.toNat)
    (hstack : ∀ k : Fin 16, k.val < s.sp.val → ReturnAddress s.stack[k]) (hfault : s.fault.kind = .none)
    (hrun : s.run = .running) : Inv s where
  memory := hmem
  pc := hpc
  stack := hstack
  fault := iff_of_false (not_not_intro hfault) (by rw [hrun]; decide)
  record := fun hhalted => absurd (hrun.symm.trans hhalted) (by decide)
  waiting := fun x hwait => absurd (hrun.symm.trans hwait) (by simp)

/-- A fault raised for the word at PC keeps the invariant. -/
theorem Inv.raise {s : State} (h : Inv s) (kind : FaultKind) (hkind : kind ≠ .none) {w : Word} (hw : w = fetchWord s) :
    Inv (raise kind w s) where
  memory := h.memory
  pc := h.pc
  stack := h.stack
  fault := iff_of_true hkind rfl
  record := fun _ => ⟨rfl, hw⟩
  waiting := fun _ hwait => by simp at hwait

/-- The wait of the Fx0A at PC keeps the invariant. -/
theorem Inv.setRun_waitKey {s : State} (h : Inv s) (hrun : s.run ≠ .halted) {x : Nibble}
    (hword : encode (.ldVxK x) = fetchWord s) : Inv (setRun (.waitKey x) s) where
  memory := h.memory
  pc := h.pc
  stack := h.stack
  fault := iff_of_false (fun hkind => hrun (h.fault.mp hkind)) (by simp)
  record := fun hhalted => by simp at hhalted
  waiting := fun y hwait => by
    obtain rfl : x = y := by simpa using hwait
    exact hword.symm

/-- The invariant reads none of the fields that belong to the environment: what a cycle does first keeps it. -/
theorem Inv.beginCycle {s : State} (h : Inv s) : Inv (beginCycle s) :=
  ⟨h.memory, h.pc, h.stack, h.fault, h.record, h.waiting⟩

theorem Inv.passStall_takeInputs {s : State} (h : Inv s) : Inv (passStall (takeInputs s)) :=
  ⟨h.memory, h.pc, h.stack, h.fault, h.record, h.waiting⟩

theorem Inv.queried {s : State} (h : Inv s) (ins : Instr) : Inv (queried ins s) := by
  rw [queried_eq]
  exact ⟨h.memory, h.pc, h.stack, h.fault, h.record, h.waiting⟩

theorem fetchWord_queried (ins : Instr) (s : State) : fetchWord (queried ins s) = fetchWord s := by
  rw [queried_eq]
  rfl

/-! ### Memory and stack after an instruction that completes -/

/-- The address check bounds the last cell of a store, so the store keeps the canonical form. -/
theorem store_wf (s : State) (bs : List Byte) (last : Nat) (hlen : bs.length = last + 1) (ha : effAddr s last ≤ 0xFFF)
    (hwf : Memory.wf s.mem = true) : Memory.wf (memWriteBytes s.mem (effAddr s 0) bs) = true := by
  simp only [effAddr] at ha ⊢
  exact memWriteBytes_wf _ _ _ (by omega) hwf

theorem effect_mem_wf (ins : Instr) (s : State) (hok : ownCheck ins s = true) (hwf : Memory.wf s.mem = true) :
    Memory.wf (effect ins s).mem = true := by
  cases ins with
  | ldBVx x => exact store_wf s _ 2 rfl ((addrValid_iff _).mp hok) hwf
  | ldMemVx x => exact store_wf s _ x.toNat (regBlock_length s x) ((addrValid_iff _).mp hok) hwf
  | _ => exact hwf

theorem pc_add_two_toNat {s : State} (hpc : s.pc.toNat + 2 ≤ 0x1000) : (s.pc + 2#16).toNat = s.pc.toNat + 2 := by
  rw [BitVec.toNat_add, BitVec.toNat_ofNat]
  omega

theorem push_sp_val {w : Word} {s : State} (hsp : s.sp.val ≠ 16) : (push w s).sp.val = s.sp.val + 1 := by
  have hlt := s.sp.isLt
  rw [push_sp, Fin.val_add_one_of_lt' (by omega)]

theorem push_stack_getElem (w : Word) (s : State) (k : Fin 16) :
    (push w s).stack[k] = if s.sp.val = k.val then w else s.stack[k] := by
  rw [push_stack, Fin.getElem_fin, Vector.getElem_setIfInBounds]
  rfl

theorem dropTop_sp_val {s : State} (hsp : s.sp.val ≠ 0) : (dropTop s).sp.val = s.sp.val - 1 := by
  have hle : (1 : Fin 17) ≤ s.sp := Fin.le_def.mpr (show 1 ≤ s.sp.val by omega)
  rw [dropTop_sp, Fin.sub_val_of_le hle]
  rfl

/-- PC + 2 is a return address, also at the end of memory (R25, decision D32). -/
theorem returnAddress_of_pc {s : State} (hpc : PcTarget s.pc.toNat) : ReturnAddress (s.pc + 2#16) := by
  obtain ⟨heven, hlow, hhigh⟩ := hpc
  rw [ReturnAddress, pc_add_two_toNat (by omega)]
  omega

theorem push_stack_returnAddress {s : State} {w : Word} (hsp : s.sp.val ≠ 16) (hw : ReturnAddress w)
    (hstack : ∀ k : Fin 16, k.val < s.sp.val → ReturnAddress s.stack[k]) (k : Fin 16) (hk : k.val < (push w s).sp.val) :
    ReturnAddress (push w s).stack[k] := by
  rw [push_sp_val hsp] at hk
  rw [push_stack_getElem]
  split
  case isTrue => exact hw
  case isFalse => exact hstack k (by omega)

theorem effect_stack_returnAddress (ins : Instr) {s : State} (h : Inv s) (hok : ownCheck ins s = true) (k : Fin 16)
    (hk : k.val < (effect ins s).sp.val) : ReturnAddress (effect ins s).stack[k] := by
  cases ins with
  | call nnn => exact push_stack_returnAddress (of_decide_eq_true hok) (returnAddress_of_pc h.pc) h.stack k hk
  | ret =>
    have hval : (effect .ret s).sp.val = s.sp.val - 1 := dropTop_sp_val (of_decide_eq_true hok)
    exact h.stack k (by omega)
  | _ => exact h.stack k hk

/-! ### The instructions, the wait and the step keep the invariant -/

theorem exec_keeps_inv {ins : Instr} {s t : State} (h : Inv s) (hrun : s.run = .running)
    (hword : encode ins = fetchWord s) (hexec : exec ins s = .next t) : Inv t := by
  cases exec_outcome hexec with
  | completes hok hpc =>
    have hfault : (effect ins s).fault.kind = .none := by rw [effect_fault]; exact h.fault_none_of_running hrun
    exact inv_of_running (effect_mem_wf ins s hok h.memory) (by rwa [setPc_toNat _ _ hpc])
      (effect_stack_returnAddress ins h hok) hfault (effect_run ins s hrun)
  | faults kind u hkind hu =>
    obtain rfl | rfl := hu
    · exact h.raise kind hkind hword
    · exact (h.queried ins).raise kind hkind (hword.trans (fetchWord_queried ins s).symm)
  | waits x hins =>
    subst hins
    exact (h.queried (.ldVxK x)).setRun_waitKey (by rw [queried_eq, hrun]; decide) hword

theorem awaitKey_keeps_inv {x : Nibble} {s : State} (h : Inv s) (hrun : s.run = .waitKey x) : Inv (awaitKey x s) := by
  have hnot : s.run ≠ .halted := by rw [hrun]; simp
  have hword := (h.waiting x hrun).symm
  obtain heq | ⟨kind, hkind, heq⟩ | ⟨k, _, _, hpc, heq⟩ := awaitKey_cases x s
  · rw [heq]; exact h.setRun_waitKey hnot hword
  · rw [heq]; exact h.raise kind hkind hword
  · rw [heq]
    have hfault : s.fault.kind = .none := by_contra fun hkind => hnot (h.fault.mp hkind)
    exact inv_of_running h.memory (by rwa [setPc_toNat _ _ hpc]) h.stack hfault rfl

/-- Settles O10: a cycle first changes only what belongs to the environment, then executes the word at PC. -/
theorem invariantKeptByEveryStep : Obligations.InvariantKeptByEveryStep := by
  unfold Obligations.InvariantKeptByEveryStep
  intro s t h hstep
  obtain ⟨hrun, ins, hword, hexec⟩ | ⟨_, rfl⟩ | ⟨x, hrun, rfl⟩ | ⟨_, rfl⟩ := step_cases hstep
  · exact exec_keeps_inv h.beginCycle hrun hword hexec
  · exact h.beginCycle.raise _ (by decide) rfl
  · exact awaitKey_keeps_inv h.passStall_takeInputs hrun
  · exact h

/-- A running core in the invariant has both bytes of its word inside memory, so the model never stops there. -/
theorem step_answers_next {s : State} (h : Inv s) : ∃ t, step s = .next t := by
  obtain ⟨heven, _, hhigh⟩ := h.pc
  cases hrun : s.run with
  | running =>
    rw [step_running s hrun (by omega)]
    cases hdec : decodeWord (fetchWord s) with
    | some ins => rw [runWord_some _ hdec]; exact exec_answers_next ins _
    | none => exact ⟨_, runWord_none _ hdec⟩
  | waitKey x => exact ⟨_, step_waitKey s hrun⟩
  | halted => exact ⟨s, step_halted s hrun⟩

/-- Settles O11: the step exists, and O10 keeps the invariant. -/
theorem invariantStatesAlwaysStep : Obligations.InvariantStatesAlwaysStep := by
  unfold Obligations.InvariantStatesAlwaysStep
  intro s h
  obtain ⟨t, ht⟩ := step_answers_next h
  exact ⟨t, ht, invariantKeptByEveryStep s t h ht⟩

/-- Settles O9: memory is the reset image, PC is 0x200, the stack is empty, the core runs with no fault. -/
theorem invariantHoldsAtReset : Obligations.InvariantHoldsAtReset := by
  unfold Obligations.InvariantHoldsAtReset
  exact inv_of_running reset_memory_wf ((pcValid_iff 0x200).mp rfl) (fun k hk => absurd hk (Nat.not_lt_zero k.val)) rfl rfl

end Sys2Proof.Machine
end

section
/-!
PROOFS. The countdown timers over time (60_exceptions R198, R200).
-/

namespace Sys2Proof.Machine

theorem count_ne_zero_iff (t : Timer) : t.count ≠ 0#8 ↔ 0 < t.count.toNat := by
  rw [Nat.pos_iff_ne_zero, ne_eq, ne_eq, ← BitVec.toNat_inj]
  rfl

theorem pred_count_toNat {b : Byte} (h : 0 < b.toNat) : (b - 1#8).toNat = b.toNat - 1 := by
  have hlt := b.isLt
  rw [BitVec.toNat_sub, BitVec.toNat_ofNat]
  omega

/-- Settles O51: the two cases of one check. -/
theorem timerCheckDropsAtMostOne : Obligations.TimerCheckDropsAtMostOne := by
  unfold Obligations.TimerCheckDropsAtMostOne
  intro tb now t
  refine ⟨fun hcount hdue => ?due, fun hidle => ?idle⟩
  case due =>
    rw [timerCheck_running tb now t ((count_ne_zero_iff t).mpr hcount) hdue]
    refine ⟨?_, rfl, rfl⟩
    have := pred_count_toNat hcount
    simp only [this]
    omega
  case idle => exact timerCheck_idle tb now t (hidle.imp_left BitVec.eq_of_toNat_eq)

/-- A timer that has run out stays so. -/
theorem checksAt_of_zero (tb : TimeBase) (times : List Nat) (t : Timer) (h : t.count = 0#8) :
    checksAt tb times t = t := by
  induction times with
  | nil => rfl
  | cons n ns ih => rw [checksAt, timerCheck_idle tb n t (.inl h), ih]

theorem le_lastTime {gap prev : Nat} {times : List Nat} (h : SpacedBy gap prev times) : prev ≤ lastTime prev times := by
  induction times generalizing prev with
  | nil => exact le_refl prev
  | cons n ns ih =>
    obtain ⟨hle, _, hns⟩ := h
    exact hle.trans (ih hns)

/-- The law of a timer whose deadline lies within one tick after the time `prev`: the last tick before the deadline began at
`deadline - pTick`, and one decrement is made for each whole tick after it. -/
theorem checksAt_count (tb : TimeBase) (hpos : 0 < tb.pTick) (times : List Nat) (prev : Nat) (t : Timer)
    (hspaced : SpacedBy tb.pTick prev times) (hbefore : prev < t.deadline) (hafter : t.deadline ≤ prev + tb.pTick) :
    (checksAt tb times t).count.toNat =
      t.count.toNat - (lastTime prev times + tb.pTick - t.deadline) / tb.pTick := by
  induction times generalizing prev t with
  | nil =>
    have hnone : (prev + tb.pTick - t.deadline) / tb.pTick = 0 := Nat.div_eq_of_lt (by omega)
    rw [checksAt, lastTime, hnone, Nat.sub_zero]
  | cons n ns ih =>
    obtain ⟨hle, hgap, hns⟩ := hspaced
    rw [checksAt, lastTime]
    by_cases hcount : t.count = 0#8
    · rw [timerCheck_idle tb n t (.inl hcount), checksAt_of_zero tb ns t hcount, hcount]
      exact (Nat.zero_sub _).symm
    · by_cases hdue : t.deadline ≤ n
      · have hlast := le_lastTime hns
        rw [timerCheck_running tb n t hcount hdue, ih n _ hns (by dsimp only; omega) (by dsimp only; omega)]
        dsimp only
        have htick : lastTime n ns + tb.pTick - t.deadline =
            lastTime n ns + tb.pTick - (t.deadline + tb.pTick) + tb.pTick := by omega
        rw [htick, Nat.add_div_right _ hpos, pred_count_toNat ((count_ne_zero_iff t).mp hcount)]
        omega
      · rw [timerCheck_idle tb n t (.inr (by omega)), ih n t hns (by omega) (by omega)]

/-- Settles O52: right after setTimer the deadline is one tick on. -/
theorem timerDropsOncePerTick : Obligations.TimerDropsOncePerTick := by
  unfold Obligations.TimerDropsOncePerTick
  intro tb n start times hpos hspaced
  rw [checksAt_count tb hpos times start (timerSet tb n start) hspaced (Nat.lt_add_of_pos_right hpos) le_rfl,
    timerSet_count, timerSet_deadline, Nat.add_sub_add_right]

end Sys2Proof.Machine
end

section
/-!
PROOFS. The reference display: what a draw does to each pixel (60_exceptions R206, decision D19).
-/

namespace Sys2Proof.Machine

/-! ### One pixel -/

theorem bitmap_ext {d e : Bitmap} (h : ∀ p, pixelSet d p = pixelSet e p) : d = e := by
  apply Vector.ext
  intro row hrow
  apply BitVec.eq_of_getLsbD_eq
  intro column hcolumn
  exact h (⟨column, hcolumn⟩, ⟨row, hrow⟩)

/-- Flipping a pixel changes that pixel and no other. -/
theorem pixelSet_pixelFlip (d : Bitmap) (p q : Pixel) :
    pixelSet (pixelFlip d p) q = Bool.xor (pixelSet d q) (decide (p = q)) := by
  obtain ⟨px, py⟩ := p
  obtain ⟨qx, qy⟩ := q
  by_cases hy : py = qy
  · subst hy
    simp [pixelSet, pixelFlip, Fin.ext_iff, eq_comm]
  · have hval : py.val ≠ qy.val := fun e => hy (Fin.ext e)
    simp [pixelSet, pixelFlip, hy, hval]

/-! ### All pixels of a draw -/

/-- The pixels that a draw targets, in the order it visits them. -/
def drawnPixels (bytes : List Byte) (x y : Byte) : List Pixel := spritePixels bytes x.toNat y.toNat 0

theorem drawSprite_eq (d : Bitmap) (bytes : List Byte) (x y : Byte) :
    drawSprite d bytes x y = (drawnPixels bytes x y).foldl drawPixel (false, d) := rfl

theorem foldl_drawPixel_snd (ps : List Pixel) (c : Bool) (d : Bitmap) :
    (ps.foldl drawPixel (c, d)).2 = ps.foldl pixelFlip d := by
  induction ps generalizing c d with
  | nil => rfl
  | cons p ps ih => exact ih _ _

theorem drawSprite_snd (d : Bitmap) (bytes : List Byte) (x y : Byte) :
    (drawSprite d bytes x y).2 = (drawnPixels bytes x y).foldl pixelFlip d := by
  rw [drawSprite_eq, foldl_drawPixel_snd]

/-- After a draw a pixel has flipped as often as it was visited. -/
theorem pixelSet_foldl_pixelFlip (ps : List Pixel) (d : Bitmap) (q : Pixel) :
    pixelSet (ps.foldl pixelFlip d) q = Bool.xor (pixelSet d q) (decide (ps.count q % 2 = 1)) := by
  induction ps generalizing d with
  | nil => simp
  | cons p ps ih =>
    rw [List.foldl_cons, ih, pixelSet_pixelFlip, Bool.xor_assoc, List.count_cons]
    congr 1
    by_cases hp : p = q
    · have hodd : decide ((ps.count q + 1) % 2 = 1) = !decide (ps.count q % 2 = 1) := by
        rw [← decide_not, decide_eq_decide]
        omega
      rw [if_pos (beq_iff_eq.mpr hp), hodd, decide_eq_true hp, Bool.true_xor]
    · simp [hp]

/-- Settles O57: both draws visit each pixel equally often, so together an even number of times. -/
theorem drawTwiceRestoresTheBitmap : Obligations.DrawTwiceRestoresTheBitmap := by
  unfold Obligations.DrawTwiceRestoresTheBitmap
  intro d bytes x y
  apply bitmap_ext
  intro p
  rw [drawSprite_snd, drawSprite_snd, pixelSet_foldl_pixelFlip, pixelSet_foldl_pixelFlip, Bool.xor_assoc, Bool.xor_self,
    Bool.xor_false]

/-! ### The targeted pixels of up to 32 rows are visited once each -/

theorem mem_rowPixels (b : Byte) (x y r : Nat) (p : Pixel) :
    p ∈ rowPixels b x y r ↔
      ∃ c, c < 8 ∧ b.getLsbD (7 - c) = true ∧ p.1.val = (x + c) % 64 ∧ p.2.val = (y + r) % 32 := by
  obtain ⟨px, py⟩ := p
  simp only [rowPixels, List.mem_filterMap, List.mem_range, Option.ite_none_right_eq_some, Option.some.injEq,
    Prod.mk.injEq, Fin.ext_iff, Fin.val_ofNat, eq_comm (b := px.val), eq_comm (b := py.val)]

theorem mem_spritePixels (bytes : List Byte) (x y r : Nat) (p : Pixel) :
    p ∈ spritePixels bytes x y r ↔ ∃ k, k < bytes.length ∧ p ∈ rowPixels (bytes.getD k 0#8) x y (r + k) := by
  induction bytes generalizing r with
  | nil => simp [spritePixels]
  | cons b bs ih =>
    rw [spritePixels, List.mem_append, ih]
    constructor
    · rintro (hrow | ⟨k, hk, hrow⟩)
      · exact ⟨0, by simp, hrow⟩
      · exact ⟨k + 1, by simpa using hk, by rwa [List.getD_cons_succ, ← Nat.add_assoc, Nat.add_right_comm]⟩
    · rintro ⟨_ | k, hk, hrow⟩
      · exact .inl hrow
      · exact .inr ⟨k, by simpa using hk, by rwa [List.getD_cons_succ, ← Nat.add_assoc, Nat.add_right_comm] at hrow⟩

/-- The list that a draw visits and the relation that says what a sprite targets agree. -/
theorem mem_drawnPixels (bytes : List Byte) (x y : Byte) (p : Pixel) :
    p ∈ drawnPixels bytes x y ↔ Targets bytes x y p := by
  simp only [drawnPixels, mem_spritePixels, mem_rowPixels, Targets, Nat.zero_add, exists_and_left]

/-- The eight columns of a row differ modulo 64. -/
theorem nodup_rowPixels (b : Byte) (x y r : Nat) : (rowPixels b x y r).Nodup := by
  refine List.pairwise_filterMap.mpr (List.pairwise_lt_range.imp_of_mem fun {c c'} hc hc' hlt p hp p' hp' heq => ?_)
  rw [List.mem_range] at hc hc'
  simp only [Option.ite_none_right_eq_some, Option.some.injEq] at hp hp'
  obtain ⟨_, rfl⟩ := hp
  obtain ⟨_, rfl⟩ := hp'
  have hcolumn := congrArg (fun p : Pixel => p.1.val) heq
  simp only [Fin.val_ofNat] at hcolumn
  omega

/-- Up to 32 rows differ modulo 32. -/
theorem nodup_spritePixels (bytes : List Byte) (x y r : Nat) (hlen : bytes.length ≤ 32) :
    (spritePixels bytes x y r).Nodup := by
  induction bytes generalizing r with
  | nil => exact List.nodup_nil
  | cons b bs ih =>
    rw [List.length_cons] at hlen
    refine List.nodup_append'.mpr ⟨nodup_rowPixels b x y r, ih (r + 1) (by omega), fun p hfirst hlater => ?_⟩
    obtain ⟨_, _, _, _, hrow⟩ := (mem_rowPixels b x y r p).mp hfirst
    obtain ⟨k, hk, hlater⟩ := (mem_spritePixels bs x y (r + 1) p).mp hlater
    obtain ⟨_, _, _, _, hrow'⟩ := (mem_rowPixels _ x y (r + 1 + k) p).mp hlater
    omega

/-! ### A draw that visits each pixel once -/

/-- With no pixel visited twice, each is met as it was before the draw. -/
theorem foldl_drawPixel_fst (ps : List Pixel) (hps : ps.Nodup) (c : Bool) (d : Bitmap) :
    (ps.foldl drawPixel (c, d)).1 = true ↔ c = true ∨ ∃ p ∈ ps, pixelSet d p = true := by
  induction ps generalizing c d with
  | nil => simp
  | cons p ps ih =>
    obtain ⟨hp, hps⟩ := List.nodup_cons.mp hps
    have hkept (q : Pixel) (hq : q ∈ ps) : pixelSet (pixelFlip d p) q = pixelSet d q := by
      have hne : p ≠ q := fun e => hp (e ▸ hq)
      rw [pixelSet_pixelFlip, decide_eq_false hne, Bool.xor_false]
    have hlater : (∃ q ∈ ps, pixelSet (pixelFlip d p) q = true) ↔ ∃ q ∈ ps, pixelSet d q = true :=
      exists_congr fun q => and_congr_right fun hq => by rw [hkept q hq]
    rw [List.foldl_cons, drawPixel, ih hps, hlater, Bool.or_eq_true, List.exists_mem_cons_iff, or_assoc]

theorem pixelSet_foldl_pixelFlip_of_nodup (ps : List Pixel) (hps : ps.Nodup) (d : Bitmap) (q : Pixel) :
    pixelSet (ps.foldl pixelFlip d) q = Bool.xor (pixelSet d q) (decide (q ∈ ps)) := by
  rw [pixelSet_foldl_pixelFlip, hps.count]
  by_cases hq : q ∈ ps <;> simp [hq]

/-- Settles O58: a sprite of at most 15 rows visits each of its pixels once. -/
theorem drawCollidesExactlyOnSetPixels : Obligations.DrawCollidesExactlyOnSetPixels := by
  unfold Obligations.DrawCollidesExactlyOnSetPixels
  intro d bytes x y hlen
  have hnodup : (drawnPixels bytes x y).Nodup := nodup_spritePixels bytes x.toNat y.toNat 0 (by omega)
  refine ⟨?collision, fun p => ?flips⟩
  case collision =>
    rw [drawSprite_eq, foldl_drawPixel_fst _ hnodup]
    simp only [mem_drawnPixels, Bool.false_eq_true, false_or]
  case flips =>
    rw [drawSprite_snd, pixelSet_foldl_pixelFlip_of_nodup _ hnodup, ← mem_drawnPixels]
    by_cases hset : pixelSet d p = true <;> simp [hset]

end Sys2Proof.Machine
end

section
/-!
PROOFS. Reset (70_reset_and_hazards R230, R231, R242; 10_state R33 to R36; 20_memory R53, R54).
-/

namespace Sys2Proof.Machine

theorem getV_reset (r : Nibble) : getV State.reset r = 0x00#8 := by
  simp [getV, State.reset]

theorem pixelSet_blankBitmap (p : Pixel) : pixelSet blankBitmap p = false := by
  simp [pixelSet, blankBitmap]

/-- The default font with no ROM is what unlisted cells read as, so no cell is listed (entry 4). -/
theorem bootMemory_default : bootMemory defaultFont [] = [] := by decide

/-- Settles O59: the registers, the display and the cells above the font by one lemma each, the fixed values by evaluation. -/
theorem resetValues : Obligations.ResetValues := by
  unfold Obligations.ResetValues
  refine ⟨?boot, getV_reset, rfl, rfl, rfl, fun k => ?stack, rfl, rfl, rfl, rfl, rfl, rfl, pixelSet_blankBitmap,
    rfl, rfl, rfl, rfl, rfl, rfl, rfl, rfl, rfl, rfl, rfl, rfl, rfl, rfl, rfl, rfl, fun a hfont _ => ?aboveFont⟩
  case boot => rw [boot, if_pos (by decide), bootMemory_default]; rfl
  case stack => simp [State.reset]
  case aboveFont => exact unlistedByte_above_font a hfont

theorem boot_isSome_iff (font : FontTable) (rom : List Byte) (tb : TimeBase) (t0 : Nat) :
    (boot font rom tb t0).isSome = true ↔ bootAccepts rom tb = true := by
  rw [boot]
  split <;> simp [*]

/-- What an accepted reset makes. -/
theorem boot_eq_some {font : FontTable} {rom : List Byte} {tb : TimeBase} {t0 : Nat} {s : State}
    (h : boot font rom tb t0 = some s) :
    rom.length ≤ 3584 ∧ s = { State.reset with
      mem := bootMemory font rom
      dt := { count := 0x00#8, setTime := t0, deadline := t0 + tb.pTick }
      st := { count := 0x00#8, setTime := t0, deadline := t0 + tb.pTick }
      cycleDeadline := t0
      timeBase := tb
      now := t0 } := by
  rw [boot] at h
  split at h
  case isTrue haccepts =>
    obtain ⟨hlen, _⟩ := (bootAccepts_iff rom tb).mp haccepts
    cases h
    exact ⟨hlen, rfl⟩
  case isFalse => cases h

/-- Settles O60: memory by the laws of `bootMemory`, the other fields by what `boot` writes, the invariant as at reset. -/
theorem bootLoadsTheRomOrRefuses : Obligations.BootLoadsTheRomOrRefuses := by
  unfold Obligations.BootLoadsTheRomOrRefuses
  intro font rom tb t0
  refine ⟨(boot_isSome_iff font rom tb t0).trans (bootAccepts_iff rom tb), fun s hs => ?accepted⟩
  obtain ⟨hlen, rfl⟩ := boot_eq_some hs
  refine ⟨bootMemory_font font rom, fun k hk => bootMemory_rom font rom k hk hlen,
    fun a hfont hrom _ => bootMemory_elsewhere font rom a hfont hrom, rfl, ?inv⟩
  exact inv_of_running (bootMemory_wf font rom hlen) invariantHoldsAtReset.pc invariantHoldsAtReset.stack rfl rfl

end Sys2Proof.Machine
end

section
/-!
PROOFS. Control flow: SYS, JP, JP V0, the other skips, CALL and RET (40_control_flow R100 to R108).
-/

namespace Sys2Proof.Machine

/-! ### Instructions that write only PC -/

theorem exec_sys (nnn : Addr) (s : State) :
    exec (.sys nnn) s = .next (commit (encode (.sys nnn)) (s.pc.toNat + 2) id s) := rfl

theorem exec_jp (nnn : Addr) (s : State) :
    exec (.jp nnn) s = .next (commit (encode (.jp nnn)) nnn.toNat id s) := rfl

theorem exec_jpV0Nnn (nnn : Addr) (s : State) :
    exec (.jpV0Nnn nnn) s = .next (commit (encode (.jpV0Nnn nnn)) (nnn.toNat + (getV s 0#4).toNat) id s) := rfl

/-- A skip on equal bytes, its target chosen by comparing them as unsigned numbers. -/
theorem skipIf_beq (w : Word) (a b : Byte) (s : State) :
    skipIf w (a == b) s = commit w (s.pc.toNat + if a.toNat = b.toNat then 4 else 2) id s := by
  rw [skipIf_eq]
  simp only [beq_iff_eq, BitVec.toNat_inj]

theorem skipIf_bne (w : Word) (a b : Byte) (s : State) :
    skipIf w (a != b) s = commit w (s.pc.toNat + if a.toNat = b.toNat then 2 else 4) id s := by
  rw [skipIf_eq]
  simp only [bne_iff_ne, ne_eq, ite_not, BitVec.toNat_inj]

theorem exec_sneVxKk (x : Nibble) (kk : Byte) (s : State) :
    exec (.sneVxKk x kk) s = .next (skipIf (encode (.sneVxKk x kk)) (getV s x != kk) s) := rfl

theorem exec_seVxVy (x y : Nibble) (s : State) :
    exec (.seVxVy x y) s = .next (skipIf (encode (.seVxVy x y)) (getV s x == getV s y) s) := rfl

theorem exec_sneVxVy (x y : Nibble) (s : State) :
    exec (.sneVxVy x y) s = .next (skipIf (encode (.sneVxVy x y)) (getV s x != getV s y) s) := rfl

/-- Settles O12: SYS is a `commit` at PC + 2 with no write. -/
theorem sysOnlyAdvances : Obligations.SysOnlyAdvances := by
  unfold Obligations.SysOnlyAdvances
  intro nnn s
  rw [exec_sys]
  exact ⟨next_commit_id_of_valid _ _ s, next_commit_id_of_invalid _ _ s⟩

/-- Settles O14: JP is a `commit` at nnn with no write. -/
theorem jpSetsPc : Obligations.JpSetsPc := by
  unfold Obligations.JpSetsPc
  intro nnn s
  rw [exec_jp]
  exact ⟨next_commit_id_of_valid _ _ s, next_commit_id_of_invalid _ _ s⟩

/-- Settles O19: the target is the sum as a number, not reduced. -/
theorem jpV0AddsV0 : Obligations.JpV0AddsV0 := by
  unfold Obligations.JpV0AddsV0
  intro nnn s
  rw [exec_jpV0Nnn]
  exact ⟨next_commit_id_of_valid _ _ s, next_commit_id_of_invalid _ _ s⟩

/-- Settles O17: as SE Vx, kk, with the targets exchanged. -/
theorem skipIfNotEqualImmediate : Obligations.SkipIfNotEqualImmediate := by
  unfold Obligations.SkipIfNotEqualImmediate
  rintro x kk s target rfl
  rw [exec_sneVxKk, skipIf_bne]
  exact ⟨next_commit_id_of_valid _ _ s, next_commit_id_of_invalid _ _ s⟩

/-- Settles O18: both compare the same two registers, with the targets exchanged. -/
theorem skipsOnTwoRegisters : Obligations.SkipsOnTwoRegisters := by
  unfold Obligations.SkipsOnTwoRegisters
  intro x y s target
  rw [exec_seVxVy, exec_sneVxVy, skipIf_beq, skipIf_bne]
  refine ⟨?equal, ?different⟩
  case equal => rintro rfl; exact ⟨next_commit_id_of_valid _ _ s, next_commit_id_of_invalid _ _ s⟩
  case different => rintro rfl; exact ⟨next_commit_id_of_valid _ _ s, next_commit_id_of_invalid _ _ s⟩

/-! ### CALL and RET (R101, R103) -/

theorem stackTop_eq (s : State) (k : Fin 16) (hk : s.sp.val = k.val + 1) : stackTop s = s.stack[k] := by
  have hlt := k.isLt
  simp [stackTop, hk, Vector.getD]

theorem exec_call_with_room (nnn : Addr) (s : State) (hsp : s.sp.val ≠ 16) :
    exec (.call nnn) s = .next (commit (encode (.call nnn)) nnn.toNat (push (s.pc + 2#16)) s) := by
  rw [exec_call, decide_eq_true hsp, guarded_true]

theorem exec_ret_with_entry (s : State) (k : Fin 16) (hk : s.sp.val = k.val + 1) :
    exec .ret s = .next (commit (encode .ret) s.stack[k].toNat dropTop s) := by
  rw [exec_ret, decide_eq_true (show s.sp.val ≠ 0 by omega), guarded_true, stackTop_eq s k hk]

/-- Settles O13: the next PC is the entry below SP, and only SP is written besides PC. -/
theorem retPopsIntoPc : Obligations.RetPopsIntoPc := by
  unfold Obligations.RetPopsIntoPc
  intro s k hk
  rw [exec_ret_with_entry s k hk]
  refine ⟨fun h => ?pops, fun h => ?faults⟩
  case pops =>
    rw [commit_of_valid _ _ _ s h]
    refine ⟨_, rfl, BitVec.eq_of_toNat_eq (setPc_toNat _ _ h), ?_, rfl⟩
    rw [setPc_sp, dropTop_sp_val (by omega), hk, Nat.add_sub_cancel]
  case faults => rw [commit_of_invalid _ _ _ s h, raise_eq_haltedWith, encode_ret]

/-- Settles O15: the entry at SP takes PC + 2 before PC is written. -/
theorem callPushesAndJumps : Obligations.CallPushesAndJumps := by
  unfold Obligations.CallPushesAndJumps
  intro nnn s k hk
  have hlt := k.isLt
  have hroom : s.sp.val ≠ 16 := by omega
  rw [exec_call_with_room nnn s hroom]
  refine ⟨fun h => ?pushes, fun h => ?faults⟩
  case pushes =>
    rw [commit_of_valid _ _ _ s h]
    refine ⟨_, rfl, setPc_toNat _ _ h, ?entry, fun j hj => ?others, ?depth, rfl⟩
    case entry => rw [setPc_stack, push_stack_getElem, if_pos hk]
    case others => rw [setPc_stack, push_stack_getElem, if_neg (fun e => hj (Fin.ext (e.symm.trans hk)))]
    case depth => rw [setPc_sp, push_sp_val hroom, hk]
  case faults => rw [commit_of_invalid _ _ _ s h, raise_eq_haltedWith]

/-- Settles O54: CALL leaves PC + 2 as the newest entry, which RET then takes, dropping the depth to what it was. -/
theorem callThenReturnComesBack : Obligations.CallThenReturnComesBack := by
  unfold Obligations.CallThenReturnComesBack
  intro nnn s hroom hnnn hnext
  have hreturn : (s.pc + 2#16).toNat = s.pc.toNat + 2 := by
    obtain ⟨_, _, hhigh⟩ := hnext
    exact pc_add_two_toNat (by omega)
  obtain ⟨hpush, _⟩ := callPushesAndJumps nnn s ⟨s.sp.val, hroom⟩ rfl
  obtain ⟨t, hcall, htpc, hentry, _, htsp, htframe⟩ := hpush hnnn
  have htop : t.stack[(⟨s.sp.val, hroom⟩ : Fin 16)].toNat = s.pc.toNat + 2 := by rw [hentry, hreturn]
  obtain ⟨hpop, _⟩ := retPopsIntoPc t ⟨s.sp.val, hroom⟩ htsp
  obtain ⟨u, hret, hupc, husp, huframe⟩ := hpop (by rwa [htop])
  refine ⟨t, u, hcall, htpc, hret, by rw [hupc, htop], ?_⟩
  have hsp : u.sp = s.sp := Fin.ext husp
  rw [huframe, htframe, hsp]

end Sys2Proof.Machine
end

section
/-!
PROOFS. Register arithmetic and shifts, random, index register, and the fetch of what a store wrote.
-/

namespace Sys2Proof.Machine

/-! ### ADD Vx, kk and LD Vx, Vy (R121, R122) -/

theorem exec_addVxKk (x : Nibble) (kk : Byte) (s : State) :
    exec (.addVxKk x kk) s = .next (advance (encode (.addVxKk x kk)) (setV x (getV s x + kk)) s) := rfl

theorem exec_ldVxVy (x y : Nibble) (s : State) :
    exec (.ldVxVy x y) s = .next (advance (encode (.ldVxVy x y)) (setV x (getV s y)) s) := rfl

/-- Settles O21: each advances with one register write, ADD's byte added modulo 256. -/
theorem addImmediateAndCopy : Obligations.AddImmediateAndCopy := by
  unfold Obligations.AddImmediateAndCopy
  intro x y kk s
  rw [exec_addVxKk, exec_ldVxVy]
  refine ⟨fun h => ⟨?add, next_advance_setV_of_valid _ x _ s h⟩,
    fun h => ⟨next_advance_of_invalid _ _ s h, next_advance_of_invalid _ _ s h⟩⟩
  case add =>
    obtain ⟨t, ht, hv, hpc, hframe⟩ := next_advance_setV_of_valid (encode (.addVxKk x kk)) x (getV s x + kk) s h
    refine ⟨t, ht, ?sum, fun r hr => by rw [hv, if_neg hr], hpc, hframe⟩
    case sum => rw [hv, if_pos rfl, BitVec.toNat_add]

/-! ### SUB and SUBN (R127, R129) -/

theorem exec_subVxVy (x y : Nibble) (s : State) :
    exec (.subVxVy x y) s = .next (advance (encode (.subVxVy x y))
      (writeFlagThenResult x (noBorrowFlag (getV s x) (getV s y)) (getV s x - getV s y)) s) := rfl

theorem exec_subnVxVy (x y : Nibble) (s : State) :
    exec (.subnVxVy x y) s = .next (advance (encode (.subnVxVy x y))
      (writeFlagThenResult x (noBorrowFlag (getV s y) (getV s x)) (getV s y - getV s x)) s) := rfl

theorem noBorrowFlag_toNat (a b : Byte) : (noBorrowFlag a b).toNat = if a.toNat ≥ b.toNat then 1 else 0 := by
  simp only [noBorrowFlag, flagByte_toNat, decide_eq_true_eq, ge_iff_le]

theorem sub_toNat (a b : Byte) : (a - b).toNat = (a.toNat + 256 - b.toNat) % 256 := by
  have hb := b.isLt
  rw [BitVec.toNat_sub]
  omega

/-- A difference with its no-borrow flag, for either direction. -/
theorem next_advance_difference_of_valid (w : Word) (x : Nibble) (a b : Byte) (s : State) (h : PcTarget (s.pc.toNat + 2)) :
    ∃ t, (.next (advance w (writeFlagThenResult x (noBorrowFlag a b) (a - b)) s) : Result) = .next t ∧
      (getV t x).toNat = (a.toNat + 256 - b.toNat) % 256 ∧
      (x ≠ 15#4 → (getV t 15#4).toNat = if a.toNat ≥ b.toNat then 1 else 0) ∧
      (∀ r, r ≠ x → r ≠ 15#4 → getV t r = getV s r) ∧
      t.pc.toNat = s.pc.toNat + 2 ∧ t = { s with v := t.v, pc := t.pc } := by
  obtain ⟨t, ht, hresult, hflag, hothers, hpc, hframe⟩ :=
    next_advance_writeFlagThenResult_of_valid w x (noBorrowFlag a b) (a - b) s h
  refine ⟨t, ht, ?difference, ?noBorrow, hothers, hpc, hframe⟩
  case difference => rw [hresult, sub_toNat]
  case noBorrow => intro hx; rw [hflag hx, noBorrowFlag_toNat]

/-- Settles O24: the difference V[x] - V[y], operands and flag read before any write. -/
theorem subSetsNoBorrow : Obligations.SubSetsNoBorrow := by
  unfold Obligations.SubSetsNoBorrow
  intro x y s
  rw [exec_subVxVy]
  exact ⟨decodeInvertsEncode (.subVxVy x y) rfl, next_advance_difference_of_valid _ x _ _ s, next_advance_of_invalid _ _ s⟩

/-- Settles O25: as SUB, with the operands exchanged. -/
theorem subnSetsNoBorrow : Obligations.SubnSetsNoBorrow := by
  unfold Obligations.SubnSetsNoBorrow
  intro x y s
  rw [exec_subnVxVy]
  exact ⟨next_advance_difference_of_valid _ x _ _ s, next_advance_of_invalid _ _ s⟩

/-! ### SHR and SHL (R128, R130) -/

theorem exec_shrVx (x y : Nibble) (s : State) :
    exec (.shrVx x y) s = .next (advance (encode (.shrVx x y))
      (writeFlagThenResult x (shrFlag (getV s x)) (getV s x >>> 1)) s) := rfl

theorem exec_shlVx (x y : Nibble) (s : State) :
    exec (.shlVx x y) s = .next (advance (encode (.shlVx x y))
      (writeFlagThenResult x (shlFlag (getV s x)) (getV s x <<< 1)) s) := rfl

theorem shrFlag_toNat (a : Byte) : (shrFlag a).toNat = a.toNat % 2 := by
  rw [shrFlag, flagByte_toNat, BitVec.getLsbD, Nat.testBit_zero]
  simp only [decide_eq_true_eq]
  split <;> omega

theorem shlFlag_toNat (a : Byte) : (shlFlag a).toNat = a.toNat / 128 := by
  have hlt := a.isLt
  rw [shlFlag, flagByte_toNat, BitVec.getLsbD, Nat.testBit_eq_decide_div_mod_eq]
  simp only [decide_eq_true_eq]
  split <;> omega

/-- Settles O26: the bit shifted out is read from the old register, then flag and result are written in that order. -/
theorem shiftsMoveOneBitIntoVf : Obligations.ShiftsMoveOneBitIntoVf := by
  unfold Obligations.ShiftsMoveOneBitIntoVf
  intro x y s
  rw [exec_shrVx, exec_shlVx]
  refine ⟨fun h => ⟨?right, ?left⟩, fun h => ⟨next_advance_of_invalid _ _ s h, next_advance_of_invalid _ _ s h⟩⟩
  case right =>
    obtain ⟨t, ht, hresult, hflag, hothers, hpc, hframe⟩ := next_advance_writeFlagThenResult_of_valid
      (encode (.shrVx x y)) x (shrFlag (getV s x)) (getV s x >>> 1) s h
    refine ⟨t, ht, ?half, fun hx => by rw [hflag hx, shrFlag_toNat], hothers, hpc, hframe⟩
    case half => rw [hresult, BitVec.toNat_ushiftRight, Nat.shiftRight_eq_div_pow, Nat.pow_one]
  case left =>
    obtain ⟨t, ht, hresult, hflag, hothers, hpc, hframe⟩ := next_advance_writeFlagThenResult_of_valid
      (encode (.shlVx x y)) x (shlFlag (getV s x)) (getV s x <<< 1) s h
    refine ⟨t, ht, ?double, fun hx => by rw [hflag hx, shlFlag_toNat], hothers, hpc, hframe⟩
    case double => rw [hresult, BitVec.toNat_shiftLeft, Nat.shiftLeft_eq, Nat.pow_one]

/-! ### RND (R131), LD I (R140), LD F (R142) -/

theorem exec_rndVxKk (x : Nibble) (kk : Byte) (s : State) :
    exec (.rndVxKk x kk) s = .next (advance (encode (.rndVxKk x kk))
      (fun t => send .rngByte (setV x (s.inputs.random &&& kk) t)) s) := rfl

/-- Settles O27: the draw is part of the writes, so a bad next PC leaves it out. -/
theorem randomIsMaskedAndDrawnOnce : Obligations.RandomIsMaskedAndDrawnOnce := by
  unfold Obligations.RandomIsMaskedAndDrawnOnce
  intro x kk s
  rw [exec_rndVxKk]
  refine ⟨fun h => ?draws, next_advance_of_invalid _ _ s⟩
  rw [advance_of_valid _ _ s h]
  exact ⟨_, rfl, fun r => by rw [getV_setPc, getV_send, getV_setV], rfl, setPc_toNat _ _ h, rfl⟩

theorem exec_ldINnn (nnn : Addr) (s : State) :
    exec (.ldINnn nnn) s = .next (advance (encode (.ldINnn nnn)) (setI nnn) s) := rfl

/-- One write of I. -/
theorem next_advance_setI_of_valid (w : Word) (a : Addr) (s : State) (h : PcTarget (s.pc.toNat + 2)) :
    ∃ t, (.next (advance w (setI a) s) : Result) = .next t ∧ t.ireg = a ∧ t.pc.toNat = s.pc.toNat + 2 ∧
      t = { s with ireg := t.ireg, pc := t.pc } := by
  rw [advance_of_valid w _ s h]
  exact ⟨_, rfl, rfl, setPc_toNat _ _ h, rfl⟩

/-- Settles O28: LD I advances with one write of I. -/
theorem loadIndex : Obligations.LoadIndex := by
  unfold Obligations.LoadIndex
  intro nnn s
  rw [exec_ldINnn]
  exact ⟨next_advance_setI_of_valid _ nnn s, next_advance_of_invalid _ _ s⟩

theorem exec_ldFVx (x : Nibble) (s : State) :
    exec (.ldFVx x) s = .next (guarded (atMost15 (getV s x)) .invalidGlyphIndex (encode (.ldFVx x))
      (advance (encode (.ldFVx x)) (setI (glyphAddr (getV s x)))) s) := rfl

theorem glyphAddr_toNat {b : Byte} (h : b.toNat ≤ 15) : (glyphAddr b).toNat = 5 * b.toNat := by
  rw [glyphAddr, BitVec.toNat_ofNat, fontBase]
  omega

/-- Settles O30: a digit passes the check, and its glyph's address fits I. -/
theorem loadGlyphAddress : Obligations.LoadGlyphAddress := by
  unfold Obligations.LoadGlyphAddress
  intro x s h15
  rw [exec_ldFVx, (atMost15_iff _).mpr h15, guarded_true]
  refine ⟨fun h => ?points, next_advance_of_invalid _ _ s⟩
  obtain ⟨t, ht, hi, hpc, hframe⟩ := next_advance_setI_of_valid (encode (.ldFVx x)) (glyphAddr (getV s x)) s h
  exact ⟨t, ht, by rw [hi, glyphAddr_toNat h15], hpc, hframe⟩

/-! ### A store and what reads it (R144, R145, R62) -/

/-- Settles O55: the store puts V[r] at I + r and leaves I alone, and the load reads the same addresses. -/
theorem storeThenLoadRestoresRegisters : Obligations.StoreThenLoadRestoresRegisters := by
  unfold Obligations.StoreThenLoadRestoresRegisters
  intro x s between ha hnext hnext' hwf
  obtain ⟨_, hstore, _⟩ := storeRegisterBlock x s
  obtain ⟨t, ht, hinside, _, htpc, htframe⟩ := hstore ha hnext hwf
  have hireg : t.ireg = s.ireg := by rw [htframe]
  have haddr (k : Nat) : effAddr { t with v := between } k = effAddr s k := by simp only [effAddr, hireg]
  obtain ⟨_, hload, _⟩ := loadRegisterBlock x { t with v := between }
  obtain ⟨u, hu, hregs, _⟩ := hload (by rwa [haddr]) (by dsimp only; rwa [htpc])
  refine ⟨t, u, ht, hu, fun r => ?_⟩
  rw [hregs, haddr]
  split
  case isTrue hr => exact hinside r hr
  case isFalse => rfl

/-- Settles O56: with I at the next word, the two bytes fetched next are the first two of the block. -/
theorem storeIsSeenByTheNextFetch : Obligations.StoreIsSeenByTheNextFetch := by
  unfold Obligations.StoreIsSeenByTheNextFetch
  intro x s hx haddr ha hnext hwf
  obtain ⟨_, hstore, _⟩ := storeRegisterBlock x s
  obtain ⟨t, ht, hinside, _, htpc, _⟩ := hstore ha hnext hwf
  refine ⟨t, ht, ?_⟩
  have hhigh : memRead t.mem t.pc.toNat = getV s 0#4 := by
    rw [htpc, ← haddr]
    exact hinside 0#4 (Nat.zero_le _)
  have hlow : memRead t.mem (t.pc.toNat + 1) = getV s 1#4 := by
    rw [htpc, ← haddr]
    exact hinside 1#4 hx
  rw [fetchWord, hhigh, hlow]

end Sys2Proof.Machine
end

section
/-!
PROOFS. Display, keyboard and timer instructions (43_peripheral R160 to R167).
-/

namespace Sys2Proof.Machine

/-! ### CLS and DRW (R160, R161) -/

theorem exec_cls (s : State) : exec .cls s = .next (advance (encode .cls) displayClear s) := rfl

theorem encode_cls : encode .cls = 0x00E0#16 := rfl

/-- Settles O34: the clear is part of the writes, so a bad next PC leaves it out. -/
theorem clearSendsOneRequest : Obligations.ClearSendsOneRequest := by
  unfold Obligations.ClearSendsOneRequest
  intro s
  rw [exec_cls, ← encode_cls]
  refine ⟨fun h => ?clears, next_advance_of_invalid _ _ s⟩
  rw [advance_of_valid _ _ s h]
  exact ⟨_, rfl, rfl, pixelSet_blankBitmap, setPc_toNat _ _ h, rfl⟩

theorem spriteBytes_getD (s : State) (n : Nibble) {r : Nat} (hr : r < n.toNat) :
    (spriteBytes s n).getD r 0#8 = memRead s.mem (effAddr s r) := by
  rw [spriteBytes, memReadBytes_getD s.mem _ _ r hr]
  rfl

/-- Settles O35: the sprite check passes, and the request, the bitmap and the flag are those of one draw of the same bytes. -/
theorem drawPassesSpriteAndSetsCollision : Obligations.DrawPassesSpriteAndSetsCollision := by
  unfold Obligations.DrawPassesSpriteAndSetsCollision
  intro x y n s hrange
  have hok : spriteInRange s n = true := (spriteInRange_iff s n).mpr fun hn => by
    have := hrange hn
    simp only [effAddr] at this
    omega
  rw [exec_drwVxVyN, hok, guarded_true]
  refine ⟨fun h => ?draws, next_advance_of_invalid _ _ s⟩
  rw [advance_of_valid _ _ s h]
  refine ⟨_, spriteBytes s n, rfl, memReadBytes_length _ _ _, fun r hr => spriteBytes_getD s n hr, rfl, rfl, ?collision,
    fun r hr => ?others, setPc_toNat _ _ h, rfl⟩
  case collision =>
    rw [getV_setPc, getV_setV, vf, if_pos rfl, flagByte_toNat]
    rfl
  case others =>
    rw [getV_setPc, getV_setV, vf, if_neg hr]
    rfl

/-! ### SKP and SKNP (R162, R163) -/

theorem exec_skpVx (x : Nibble) (s : State) :
    exec (.skpVx x) s = .next (guarded (atMost15 (getV s x)) .invalidKeyIndex (encode (.skpVx x))
      (fun t => skipIf (encode (.skpVx x)) (isPressed s (keyIndex s x)) (send (.isPressed (keyIndex s x)) t)) s) := rfl

theorem exec_sknpVx (x : Nibble) (s : State) :
    exec (.sknpVx x) s = .next (guarded (atMost15 (getV s x)) .invalidKeyIndex (encode (.sknpVx x))
      (fun t => skipIf (encode (.sknpVx x)) (!isPressed s (keyIndex s x)) (send (.isPressed (keyIndex s x)) t)) s) := rfl

/-- After the query a skip writes PC, or faults with the query made. -/
theorem next_commit_send_of_valid (w : Word) (q : Request) (target : Nat) (s : State) (h : PcTarget target) :
    ∃ t, (.next (commit w target id (send q s)) : Result) = .next t ∧ t.pc.toNat = target ∧
      t.requests = q :: s.requests ∧ t = { s with pc := t.pc, requests := t.requests } := by
  rw [commit_of_valid w target id _ h]
  exact ⟨_, rfl, setPc_toNat _ _ h, rfl, rfl⟩

/-- Settles O36: a key index passes the check and is the key queried; what is left is a skip on the answer. -/
theorem keySkipsFollowTheAnswer : Obligations.KeySkipsFollowTheAnswer := by
  unfold Obligations.KeySkipsFollowTheAnswer
  intro x key s target hkey
  have h15 : (getV s x).toNat ≤ 15 := by have := key.isLt; omega
  have hindex : keyIndex s x = key := BitVec.eq_of_toNat_eq ((keyIndex_toNat s x h15).trans hkey)
  rw [exec_skpVx, exec_sknpVx, (atMost15_iff _).mpr h15, guarded_true, guarded_true, hindex, skipIf_eq, skipIf_eq,
    send_pc, isPressed]
  refine ⟨?pressed, ?notPressed⟩
  case pressed =>
    rintro rfl
    exact ⟨next_commit_send_of_valid _ _ _ s, next_commit_id_of_invalid _ _ _⟩
  case notPressed =>
    rintro rfl
    simp only [Bool.not_eq_true', ← Bool.not_eq_true, ite_not]
    exact ⟨next_commit_send_of_valid _ _ _ s, next_commit_id_of_invalid _ _ _⟩

/-- Settles O43: the check on V[x] stands first in each of the three. -/
theorem keyAndGlyphIndexFaults : Obligations.KeyAndGlyphIndexFaults := by
  unfold Obligations.KeyAndGlyphIndexFaults
  intro x s h15
  have hbad : atMost15 (getV s x) = false := atMost15_eq_false h15
  rw [exec_skpVx, exec_sknpVx, exec_ldFVx]
  exact ⟨next_guarded_of_failed _ _ _ s hbad, next_guarded_of_failed _ _ _ s hbad, next_guarded_of_failed _ _ _ s hbad⟩

/-! ### LD Vx, DT and LD ST, Vx (R164, R167) -/

theorem exec_ldVxDt (x : Nibble) (s : State) :
    exec (.ldVxDt x) s = .next (advance (encode (.ldVxDt x)) (setV x s.dt.count) s) := rfl

/-- Settles O37: in a cycle the instruction executes on the state whose timers have just been checked. -/
theorem readDelayTimer : Obligations.ReadDelayTimer := by
  unfold Obligations.ReadDelayTimer
  have hdecode (x : Nibble) := decodeInvertsEncode (.ldVxDt x) rfl
  refine ⟨fun x s => ?instruction, fun x s hrun hfetch hnext hword => ?cycle⟩
  case instruction =>
    rw [exec_ldVxDt]
    exact ⟨hdecode x, next_advance_setV_of_valid _ x _ s, next_advance_of_invalid _ _ s⟩
  case cycle =>
    have hfetched : fetchWord s = encode (.ldVxDt x) := hword
    rw [step_running s hrun hfetch, hfetched, runWord_some _ (hdecode x), exec_ldVxDt]
    obtain ⟨t, ht, hv, _⟩ := next_advance_setV_of_valid (encode (.ldVxDt x)) x (beginCycle s).dt.count (beginCycle s) hnext
    exact ⟨t, ht, by rw [hv, if_pos rfl]; rfl⟩

theorem exec_ldStVx (x : Nibble) (s : State) :
    exec (.ldStVx x) s = .next (advance (encode (.ldStVx x)) (setSoundTimer (getV s x)) s) := rfl

/-- Settles O40: the tone is part of the writes, so a bad next PC leaves it out. -/
theorem setSoundTimerSendsOneTone : Obligations.SetSoundTimerSendsOneTone := by
  unfold Obligations.SetSoundTimerSendsOneTone
  intro x s
  rw [exec_ldStVx]
  refine ⟨fun h => ?sets, next_advance_of_invalid _ _ s⟩
  rw [advance_of_valid _ _ s h]
  exact ⟨_, rfl, rfl, rfl, rfl, rfl, setPc_toNat _ _ h, rfl⟩

end Sys2Proof.Machine
end
